-- ==== Sys2Proof/Word.lean ====
section
/-! DEFINITION. Bytes and words (spec/00_scope.md R9). -/

namespace Sys2Proof

/-- A byte: an unsigned integer 0 to 255 (R9). -/
abbrev Byte := BitVec 8

/-- A word: an unsigned integer 0 to 2^32 - 1 (R9); the width XLEN of every register (R6). -/
abbrev Word := BitVec 32

end Sys2Proof
end

