-- ==== Sys2Proof/Syntax.lean ====
section
/-! DEFINITION. The thirteen commands of spec/30_encoding.md R94, one constructor per row of
spec/opcode_table.json. -/

namespace Sys2Proof

/-- A command of AES128E (R94). Every operand but ARK's round index is implicit (R93). -/
inductive Instr where
  /-- KEXP, word 0x00000001: expand KEY into the schedule store (R153). -/
  | kexp
  /-- ARK r, word 0x00000r02: add round key r to BLK (R162); `r` is the 4-bit field `rnd`. -/
  | ark (r : BitVec 4)
  /-- SUBB, word 0x00000003: SubBytes on BLK (R164). -/
  | subb
  /-- ISUBB, word 0x00000004: InvSubBytes on BLK (R165). -/
  | isubb
  /-- SHROW, word 0x00000005: ShiftRows on BLK (R167). -/
  | shrow
  /-- ISHROW, word 0x00000006: InvShiftRows on BLK (R169). -/
  | ishrow
  /-- MIXC, word 0x00000007: MixColumns on BLK (R171). -/
  | mixc
  /-- IMIXC, word 0x00000008: InvMixColumns on BLK (R173). -/
  | imixc
  /-- ENCB, word 0x00000009: encrypt BLK with the stored schedule (R181). -/
  | encb
  /-- DECB, word 0x0000000A: decrypt BLK with the stored schedule (R183). -/
  | decb
  /-- ECBD, word 0x0000000B: decrypt LEN bytes at SRC into DST (R192). -/
  | ecbd
  /-- ZEROIZE, word 0x0000000E: discard every value the engine holds (R200). -/
  | zeroize
  /-- CLRERR, word 0x0000000F: acknowledge a fault (R201). -/
  | clrerr
  deriving DecidableEq, Repr

end Sys2Proof
end

