-- ==== Sys2Proof/WellFormed.lean ====
section
/-! DEFINITION. Which terms of `Instr` are commands of the hardware (spec/30_encoding.md R92, R93). -/

namespace Sys2Proof

/-- R92, R93: ARK's operand is a round index 0 to 10; the other commands have no operand, hence
nothing to check. -/
def Instr.wellFormed : Instr → Bool
  | .ark r => decide (r.toNat ≤ 10)
  | .kexp => true
  | .subb => true
  | .isubb => true
  | .shrow => true
  | .ishrow => true
  | .mixc => true
  | .imixc => true
  | .encb => true
  | .decb => true
  | .ecbd => true
  | .zeroize => true
  | .clrerr => true

end Sys2Proof
end

