-- ==== Sys2Proof/Decode.lean ====
section
/-! DEFINITION. The command word (spec/30_encoding.md R90 to R97): its fields, the total decoder of
R95, the encoder of R91 and R92, the assembler's check of R98. -/

namespace Sys2Proof

/-- Why a word is no command: the clause of R95 that rejects it. The machine performs every one of
them as the same illegal command (R96); the names only say which clause it was. -/
inductive Illegal where
  /-- R95 (1): a non-zero bit in 31:12. -/
  | nonZeroHighBits
  /-- R95 (2): opcode 0x02 with `rnd` 11 to 15. -/
  | roundIndexAboveTen
  /-- R95 (3): a format-N word with `rnd` ≠ 0. -/
  | roundFieldNotZero
  /-- R95 (5): an opcode that names no command. -/
  | unassignedOpcode
  deriving DecidableEq, Repr

/-- R90: `op`, bits 7:0. -/
def opField (w : Word) : BitVec 8 := w.extractLsb' 0 8

/-- R90: `rnd`, bits 11:8. -/
def rndField (w : Word) : BitVec 4 := w.extractLsb' 8 4

/-- R90: `zero`, bits 31:12. -/
def zeroField (w : Word) : BitVec 20 := w.extractLsb' 12 20

/-- R94: the command of a format-N opcode (0x02 is format R and is not here). -/
def formatN (op : BitVec 8) : Option Instr :=
  if op = 0x01#8 then some .kexp
  else if op = 0x03#8 then some .subb
  else if op = 0x04#8 then some .isubb
  else if op = 0x05#8 then some .shrow
  else if op = 0x06#8 then some .ishrow
  else if op = 0x07#8 then some .mixc
  else if op = 0x08#8 then some .imixc
  else if op = 0x09#8 then some .encb
  else if op = 0x0A#8 then some .decb
  else if op = 0x0B#8 then some .ecbd
  else if op = 0x0E#8 then some .zeroize
  else if op = 0x0F#8 then some .clrerr
  else none

/-- R95: decoding, a total function on 32-bit words, its clauses in the rule's order. -/
def decode (w : Word) : Except Illegal Instr :=
  if zeroField w ≠ 0#20 then .error .nonZeroHighBits
  else if opField w = 0x02#8 then
    if (rndField w).toNat ≤ 10 then .ok (.ark (rndField w)) else .error .roundIndexAboveTen
  else if rndField w ≠ 0#4 then .error .roundFieldNotZero
  else match formatN (opField w) with
    | some i => .ok i
    | none => .error .unassignedOpcode

/-- R94: the opcode of a command. -/
def opcode : Instr → BitVec 8
  | .kexp => 0x01#8
  | .ark _ => 0x02#8
  | .subb => 0x03#8
  | .isubb => 0x04#8
  | .shrow => 0x05#8
  | .ishrow => 0x06#8
  | .mixc => 0x07#8
  | .imixc => 0x08#8
  | .encb => 0x09#8
  | .decb => 0x0A#8
  | .ecbd => 0x0B#8
  | .zeroize => 0x0E#8
  | .clrerr => 0x0F#8

/-- R91, R92: the round field of a command, 0 in format N. -/
def roundOperandField : Instr → BitVec 4
  | .ark r => r
  | .kexp => 0#4
  | .subb => 0#4
  | .isubb => 0#4
  | .shrow => 0#4
  | .ishrow => 0#4
  | .mixc => 0#4
  | .imixc => 0#4
  | .encb => 0#4
  | .decb => 0#4
  | .ecbd => 0#4
  | .zeroize => 0#4
  | .clrerr => 0#4

/-- R90 to R92: the command word, `zero` in bits 31:12, `rnd` in 11:8, `op` in 7:0. -/
def encode (i : Instr) : Word := 0#20 ++ roundOperandField i ++ opcode i

/-- R98: an assembler rejects `ARK r` with r > 10 rather than emit an illegal word. -/
def assemble (i : Instr) : Option Word := if i.wellFormed then some (encode i) else none

/-- The instruction the decoder reads from an opcode-table row's `nbits` bits `w` (bit 0 the least
significant of the one command word, R97: one fixed length of 32 bits); bits above `nbits` are 0. -/
def decodeTableWord (nbits w : Nat) : Option Instr :=
  match decode (BitVec.ofNat 32 (w % 2 ^ nbits)) with
  | .ok i => some i
  | .error _ => none

end Sys2Proof
end

