-- ==== Sys2Proof/Machine/Block.lean ====
section
/-! DEFINITION. Columns, blocks and schedules (spec/00_scope.md R11, R12; spec/10_state.md R26): plain
data, the byte view, the matrix view and the big-endian word view. -/

namespace Sys2Proof

/-- One column of a block: four bytes, rows 0 to 3 (R11). -/
structure Column where
  r0 : Byte
  r1 : Byte
  r2 : Byte
  r3 : Byte
  deriving DecidableEq, Repr

/-- A block: exactly 16 bytes, as 4 columns of 4 rows "in column-major order" (R11). -/
structure Block where
  c0 : Column
  c1 : Column
  c2 : Column
  c3 : Column
  deriving DecidableEq, Repr

/-- A round key schedule: eleven blocks K[0] to K[10] (spec/10_state.md R26). -/
structure Schedule where
  k0 : Block
  k1 : Block
  k2 : Block
  k3 : Block
  k4 : Block
  k5 : Block
  k6 : Block
  k7 : Block
  k8 : Block
  k9 : Block
  k10 : Block
  deriving DecidableEq, Repr

/-- The byte in row `r` of a column. -/
def Column.row (c : Column) (r : Fin 4) : Byte :=
  match r with
  | 0 => c.r0
  | 1 => c.r1
  | 2 => c.r2
  | 3 => c.r3

/-- The column whose row `r` is `f r`. -/
def Column.ofFn (f : Fin 4 → Byte) : Column := ⟨f 0, f 1, f 2, f 3⟩

/-- R12 `word`: a column as a word, row 0 in the most significant byte (R9 `{a, b}`: `a` high). -/
def Column.toWord (c : Column) : Word := c.r0 ++ c.r1 ++ c.r2 ++ c.r3

/-- R12 `bytes(w) = [w[31:24], w[23:16], w[15:8], w[7:0]]`. -/
def Column.ofWord (w : Word) : Column :=
  ⟨w.extractLsb' 24 8, w.extractLsb' 16 8, w.extractLsb' 8 8, w.extractLsb' 0 8⟩

/-- Column `c` of a block, its bytes `b[4c]` to `b[4c+3]` (R11). -/
def Block.col (b : Block) (c : Fin 4) : Column :=
  match c with
  | 0 => b.c0
  | 1 => b.c1
  | 2 => b.c2
  | 3 => b.c3

/-- The block with column `c` replaced. -/
def Block.setCol (b : Block) (c : Fin 4) (v : Column) : Block :=
  match c with
  | 0 => { b with c0 := v }
  | 1 => { b with c1 := v }
  | 2 => { b with c2 := v }
  | 3 => { b with c3 := v }

/-- The block whose column `c` is `f c`. -/
def Block.ofCols (f : Fin 4 → Column) : Block := ⟨f 0, f 1, f 2, f 3⟩

/-- The byte at row `r`, column `c` (R11: `b[r + 4*c]`). -/
def Block.at (b : Block) (r c : Fin 4) : Byte := (b.col c).row r

/-- The block whose byte at row `r`, column `c` is `f r c`. -/
def Block.ofMatrix (f : Fin 4 → Fin 4 → Byte) : Block :=
  Block.ofCols fun c => Column.ofFn fun r => f r c

/-- Byte `b[j]` of a block in sequence order (R11). -/
def Block.byte (b : Block) (j : Fin 16) : Byte :=
  b.at ⟨j.val % 4, Nat.mod_lt _ (by decide)⟩ ⟨j.val / 4, Nat.div_lt_of_lt_mul j.isLt⟩

/-- The block whose byte `j` is `f j`. -/
def Block.ofFn (f : Fin 16 → Byte) : Block :=
  ⟨⟨f 0, f 1, f 2, f 3⟩, ⟨f 4, f 5, f 6, f 7⟩, ⟨f 8, f 9, f 10, f 11⟩, ⟨f 12, f 13, f 14, f 15⟩⟩

/-- The sixteen bytes of a block, b[0] first. -/
def Block.toBytes (b : Block) : List Byte :=
  [b.c0.r0, b.c0.r1, b.c0.r2, b.c0.r3, b.c1.r0, b.c1.r1, b.c1.r2, b.c1.r3,
   b.c2.r0, b.c2.r1, b.c2.r2, b.c2.r3, b.c3.r0, b.c3.r1, b.c3.r2, b.c3.r3]

/-- R12 `word(b, i)`: word `i` of a block is column `i`, big-endian. -/
def Block.word (b : Block) (i : Fin 4) : Word := (b.col i).toWord

/-- The block with word `i` replaced: the four writes of spec/10_state.md R22 and R23. -/
def Block.setWord (b : Block) (i : Fin 4) (w : Word) : Block := b.setCol i (Column.ofWord w)

/-- The block of four words, packed big-endian (R12). -/
def Block.ofWords (w0 w1 w2 w3 : Word) : Block :=
  ⟨Column.ofWord w0, Column.ofWord w1, Column.ofWord w2, Column.ofWord w3⟩

/-- Sixteen bytes 0x00. -/
def Block.zero : Block := ⟨⟨0, 0, 0, 0⟩, ⟨0, 0, 0, 0⟩, ⟨0, 0, 0, 0⟩, ⟨0, 0, 0, 0⟩⟩

/-- Exclusive-or of columns, byte by byte (spec/40_arithmetic.md R131). -/
def Column.xor (a b : Column) : Column :=
  ⟨a.r0 ^^^ b.r0, a.r1 ^^^ b.r1, a.r2 ^^^ b.r2, a.r3 ^^^ b.r3⟩

/-- Exclusive-or of blocks, byte by byte: `(a ^ b)[j] = a[j] ^ b[j]` (spec/40_arithmetic.md R131). -/
def Block.xor (a b : Block) : Block :=
  ⟨a.c0.xor b.c0, a.c1.xor b.c1, a.c2.xor b.c2, a.c3.xor b.c3⟩

/-- `f` on each byte of a column. -/
def Column.map (f : Byte → Byte) (c : Column) : Column := ⟨f c.r0, f c.r1, f c.r2, f c.r3⟩

/-- `f` on each byte of a block, each staying in its position. -/
def Block.map (f : Byte → Byte) (b : Block) : Block :=
  ⟨b.c0.map f, b.c1.map f, b.c2.map f, b.c3.map f⟩

/-- Round key `r` of a schedule. -/
def Schedule.get (K : Schedule) (r : Fin 11) : Block :=
  match r with
  | 0 => K.k0
  | 1 => K.k1
  | 2 => K.k2
  | 3 => K.k3
  | 4 => K.k4
  | 5 => K.k5
  | 6 => K.k6
  | 7 => K.k7
  | 8 => K.k8
  | 9 => K.k9
  | 10 => K.k10

/-- The schedule whose round key `r` is `f r`. -/
def Schedule.ofFn (f : Fin 11 → Block) : Schedule :=
  ⟨f 0, f 1, f 2, f 3, f 4, f 5, f 6, f 7, f 8, f 9, f 10⟩

/-- Schedule word `W[i] = word(RK[i div 4], i mod 4)` (spec/00_scope.md R13, spec/10_state.md R27). -/
def Schedule.word (K : Schedule) (i : Fin 44) : Word :=
  (K.get ⟨i.val / 4, Nat.div_lt_of_lt_mul i.isLt⟩).word ⟨i.val % 4, Nat.mod_lt _ (by decide)⟩

/-- `W[i]` by number (spec/00_scope.md R13); the rules use it for i 0 to 43 only. -/
def Schedule.W (K : Schedule) (i : Nat) : Word := K.word (Fin.ofNat 44 i)

end Sys2Proof
end

