-- ==== Sys2Proof/Machine/Arith.lean ====
section
/-! DEFINITION. Arithmetic of spec/40_arithmetic.md R120 to R125: GF(2^8) with polynomial 0x11B and the
round constants. Addition in the field is `^^^` on bytes (R120). -/

namespace Sys2Proof

/-- R121: doubling in GF(2^8); the test is on bit 7 of the input. -/
def xtime (b : Byte) : Byte := if b.getLsbD 7 then (b <<< 1) ^^^ 0x1B#8 else b <<< 1

/-- R122, the loop body: with `p` the product so far and `t` the doubled operand, take bit `i` of `b`. -/
def gmulStep (b : Byte) (pt : Byte × Byte) (i : Nat) : Byte × Byte :=
  (if b.getLsbD i then pt.1 ^^^ pt.2 else pt.1, xtime pt.2)

/-- R122: multiplication in GF(2^8) by repeated doubling and exclusive-or, bits 0 to 7 of `b` in order. -/
def gmul (a b : Byte) : Byte := ([0, 1, 2, 3, 4, 5, 6, 7].foldl (gmulStep b) (0#8, a)).1

/-- R124: the round-constant byte, `rc(0) = 0x01` and `rc(n) = xtime(rc(n-1))`. -/
def rc : Nat → Byte
  | 0 => 0x01#8
  | n + 1 => xtime (rc n)

/-- R125: the round-constant word of round `r`, 1 ≤ r ≤ 10: `RconW(r) = rc(r - 1) << 24` (the index by
spec/90_conflicts.md C1). No command uses it at r = 0 (log entry 13). -/
def rconW (r : Nat) : Word := (rc (r - 1)).zeroExtend 32 <<< 24

end Sys2Proof
end

