-- ==== Sys2Proof/Config.lean ====
section
/-! DEFINITION. What one implementation of AES128E fixes and the spec leaves open. Each constant is
opaque: it has no body a proof can see, so whatever is proved holds for every value of it. -/

namespace Sys2Proof.Config

/-- The parameter MEMSIZE of spec/00_scope.md R6 with its bound 0 ≤ MEMSIZE ≤ 2^32, for the machine
that `State.reset` describes. DESIGN CHOICE (log entry 1), safe: nothing can be proved of its value
but the bound. -/
opaque memSizeBounded : Fin (2 ^ 32 + 1)

/-- MEMSIZE as a natural number. -/
def memSize : Nat := memSizeBounded.val

/-- R6: MEMSIZE is at most 2^32. -/
theorem memSize_le : memSize ≤ 2 ^ 32 := Nat.le_of_lt_succ memSizeBounded.isLt

/-- The byte that address `a` of M holds at power-on, before anything has written it: arbitrary
(spec/10_state.md R39, spec/93_implementation_defined.md U2, "any value"). A free value.
DESIGN CHOICE (log entry 2), safe. -/
opaque powerOnByte (a : Nat) : Byte

end Sys2Proof.Config
end

