-- ==== Sys2Proof/Machine/State.lean ====
section
/-! DEFINITION. The state of AES128E (spec/10_state.md R20), the host agent's part of it, the reasons a
step can stop, and the state after reset (R39). -/

namespace Sys2Proof.Machine

open Sys2Proof

/-- The value of CAUSE (spec/60_exceptions.md R211); its codes are `Cause.code` in Flags.lean. The
values 6 to 15 never occur (spec/93_implementation_defined.md U8), so they have no constructor. -/
inductive Cause where
  /-- 0: no fault since the last clear. -/
  | none
  /-- 1: the word written to CMD decodes as illegal. -/
  | illcmd
  /-- 2: the command uses the schedule and KVALID = 0. -/
  | nokey
  /-- 3: LEN is no multiple of 16. -/
  | length
  /-- 4: a range of ECBD passes MEMSIZE. -/
  | bounds
  /-- 5: the ranges of ECBD share a byte. -/
  | overlap
  deriving DecidableEq, Repr

/-- The buffer memory M (spec/20_memory.md R60) as (address, byte) pairs, addresses strictly rising
(`Memory.wf`); an address that is not listed has not been written since power-on (log entry 2). -/
abbrev Memory := List Host.Cell

/-- One operation of the host (spec/70_reset_and_hazards.md R246, spec/30_encoding.md R98). -/
inductive HostOp where
  /-- A register write of `bits` bits at byte offset `off` of the 256-byte register block. -/
  | writeReg (bits : Nat) (off : BitVec 8) (value : Word)
  /-- A register read of `bits` bits at byte offset `off`. -/
  | readReg (bits : Nat) (off : BitVec 8)
  /-- `HostWriteMem(addr, bytes)` (spec/20_memory.md R66). -/
  | writeMem (addr : Nat) (bytes : List Byte)
  /-- `HostReadMem(addr, n)` (spec/20_memory.md R66). -/
  | readMem (addr : Nat) (n : Nat)
  /-- RESET (spec/70_reset_and_hazards.md R240). -/
  | reset
  deriving DecidableEq, Repr

/-- What a host read gives back (spec/70_reset_and_hazards.md R246, R247). -/
inductive Returned where
  /-- The word of a register read. -/
  | word (w : Word)
  /-- The bytes of a read of M. -/
  | bytes (bs : List Byte)
  deriving DecidableEq, Repr

/-- The state: the elements of R20, then the model's own fields (the parameter MEMSIZE and the host
agent). KVALID is not stored beside RK: R26 gives RK a value exactly while KVALID = 1, so it is
`State.kvalid` of Flags.lean (log entry 5). -/
structure State where
  /-- KEY (R21). -/
  key : Block
  /-- BLK (R23). -/
  blk : Block
  /-- RK, absent while KVALID = 0 (R26). -/
  rk : Option Schedule
  /-- ERR (R29). -/
  err : Bool
  /-- CAUSE (R29). -/
  cause : Cause
  /-- SRC (R24). -/
  src : Word
  /-- DST (R24). -/
  dst : Word
  /-- LEN (R24). -/
  len : Word
  /-- M (R38). -/
  mem : Memory
  /-- The parameter MEMSIZE (spec/00_scope.md R6), which no step writes (log entry 1). -/
  memSize : Nat
  /-- The host operations still to perform, the next one first (log entry 3). -/
  script : List HostOp
  /-- What the host's reads have returned, oldest first (log entry 3). -/
  returned : List Returned
  deriving DecidableEq, Repr

/-- Reasons for which the machine itself stops: none. A fault of the hardware is recorded in ERR and
CAUSE and the engine goes on (spec/60_exceptions.md R214, R216; spec/93_implementation_defined.md:
"Nothing in the spec is treated as `stuck`"), so a fault of R211 is a next state (log entry 11). -/
inductive Fault where
  deriving DecidableEq, Repr

/-- Reasons for which a step has no meaning. The spec itself has a model refuse the last four
(spec/10_state.md R34, spec/20_memory.md R66). -/
inductive Refusal where
  /-- Raised by an arm of `exec` whose instruction has no meaning yet; no arm does. Safe. -/
  | notModelled (mnemonic : String)
  /-- Raised by a register access that is not 32 bits wide (R34, U1). Safe: it only stops. -/
  | accessNotWord (bits : Nat)
  /-- Raised by a register access whose offset is not a multiple of 4 (R34, U1). Safe: it only stops. -/
  | misalignedOffset (off : BitVec 8)
  /-- Raised by a register access at 0x14, 0x18, 0x1C or 0xF0 to 0xFC (R34, U1). Safe: it only stops. -/
  | reservedOffset (off : BitVec 8)
  /-- Raised by a host access to M that passes MEMSIZE (spec/20_memory.md R66, U3). Safe: it only stops. -/
  | outsideMemory (addr n : Nat)
  deriving DecidableEq, Repr

/-- The outcome of a step of this machine. -/
abbrev Result := Host.Outcome State Fault Refusal

/-- An engine with a buffer memory of `n` bytes just after a power-on reset (R39), its host idle. -/
def State.powerOn (n : Nat) : State where
  key := Block.zero
  blk := Block.zero
  rk := Option.none
  err := false
  cause := Cause.none
  src := 0#32
  dst := 0#32
  len := 0#32
  mem := []
  memSize := n
  script := []
  returned := []

/-- The machine right after reset (R39, R240), MEMSIZE being the implementation's. -/
def State.reset : State := State.powerOn Config.memSize

end Sys2Proof.Machine
end

