-- ==== Sys2Proof/Machine/Flags.lean ====
section
/-! DEFINITION. KVALID, ERR, CAUSE and the STATUS word (spec/10_state.md R28, R29, R32). There are no
arithmetic condition codes (R30). -/

namespace Sys2Proof.Machine

open Sys2Proof

/-- KVALID (R28): RK holds a value exactly while it is 1 (R26). -/
def State.kvalid (s : State) : Bool := s.rk.isSome

/-- The 4-bit code of a cause (spec/60_exceptions.md R211). -/
def Cause.code : Cause → BitVec 4
  | .none => 0#4
  | .illcmd => 1#4
  | .nokey => 2#4
  | .length => 3#4
  | .bounds => 4#4
  | .overlap => 5#4

/-- A flag as a word. -/
def flagWord (b : Bool) : Word := if b then 1#32 else 0#32

/-- R32: what STATUS reads, `(CAUSE << 4) | (ERR << 1) | KVALID`. -/
def State.statusWord (s : State) : Word :=
  (s.cause.code.zeroExtend 32 <<< 4) ||| (flagWord s.err <<< 1) ||| flagWord s.kvalid

end Sys2Proof.Machine
end

