-- ==== Sys2Proof/Machine/Ops.lean ====
section
/-! DEFINITION. The named operations: memory (spec/20_memory.md), register writes (spec/10_state.md),
taking a fault and clearing it (spec/60_exceptions.md R214, R216), resetting the registers. -/

namespace Sys2Proof.Machine

open Sys2Proof

/-- The canonical form of M: addresses strictly rising. An unlisted address has no recorded byte, so no
entry can equal what it records (log entry 2). -/
abbrev Memory.wf (m : Memory) : Prop := m.Pairwise fun x y => x.1 < y.1

/-- Every listed address names a byte of a memory of `n` bytes (R60). -/
abbrev Memory.inside (m : Memory) (n : Nat) : Prop := ∀ c ∈ m, c.1 < n

/-- What has been written to address `a` since power-on, if anything. -/
def Memory.lookup : Memory → Nat → Option Byte
  | [], _ => none
  | (b, v) :: rest, a => if b = a then some v else Memory.lookup rest a

/-- `M[a]` (R60): the byte last written there, or the power-on byte, a free value (log entry 2). -/
def Memory.readByte (m : Memory) (a : Nat) : Byte := (m.lookup a).getD (Config.powerOnByte a)

/-- `M[a] <- v`, keeping the addresses in order. -/
def Memory.writeByte : Memory → Nat → Byte → Memory
  | [], a, v => [(a, v)]
  | (b, u) :: rest, a, v =>
    if a < b then (a, v) :: (b, u) :: rest
    else if a = b then (a, v) :: rest
    else (b, u) :: Memory.writeByte rest a v

/-- R62: `MemRead(addr, n)`, lowest address first; called only with `addr + n ≤ MEMSIZE`. -/
def Memory.readBytes (m : Memory) : Nat → Nat → List Byte
  | _, 0 => []
  | a, n + 1 => m.readByte a :: Memory.readBytes m (a + 1) n

/-- R63: `MemWrite(addr, n, v)` with `n` the length of `v`, in ascending address order (R67); called only
with `addr + n ≤ MEMSIZE`. -/
def Memory.writeBytes : Memory → Nat → List Byte → Memory
  | m, _, [] => m
  | m, a, v :: vs => Memory.writeBytes (m.writeByte a v) (a + 1) vs

/-- R61: the block at address `a`, `b[j] = M[a + j]`: `MemRead(a, 16)`. -/
def Memory.readBlock (m : Memory) (a : Nat) : Block := Block.ofFn fun j => m.readByte (a + j.val)

/-- `MemWrite(a, 16, b)` (R61, R63). -/
def Memory.writeBlock (m : Memory) (a : Nat) (b : Block) : Memory := m.writeBytes a b.toBytes

/-- `BLK <- b`. -/
def State.setBlk (s : State) (b : Block) : State := { s with blk := b }

/-- `RK <- K; KVALID <- 1` (spec/41_key_schedule.md R153). -/
def State.setSchedule (s : State) (K : Schedule) : State := { s with rk := some K }

/-- Host write of KEYi: four bytes of KEY, and `KVALID <- 0`, RK absent (spec/10_state.md R22, R26). -/
def State.writeKeyWord (s : State) (i : Fin 4) (v : Word) : State :=
  { s with key := s.key.setWord i v, rk := none }

/-- Host write of BLKi: four bytes of BLK (spec/10_state.md R23). -/
def State.writeBlkWord (s : State) (i : Fin 4) (v : Word) : State :=
  { s with blk := s.blk.setWord i v }

/-- `SRC <- v` (spec/10_state.md R24). -/
def State.setSrc (s : State) (v : Word) : State := { s with src := v }

/-- `DST <- v` (spec/10_state.md R24). -/
def State.setDst (s : State) (v : Word) : State := { s with dst := v }

/-- `LEN <- v` (spec/10_state.md R24). -/
def State.setLen (s : State) (v : Word) : State := { s with len := v }

/-- `M <- m`. -/
def State.setMem (s : State) (m : Memory) : State := { s with mem := m }

/-- The host records what a read returned (spec/30_encoding.md R98). -/
def State.record (s : State) (r : Returned) : State := { s with returned := s.returned ++ [r] }

/-- The state part of `raise Fault(c)` (R214): `if ERR = 0 then CAUSE <- c; ERR <- 1`, nothing else. -/
def State.recordFault (s : State) (c : Cause) : State :=
  { s with err := true, cause := if s.err then s.cause else c }

/-- Taking a fault (R214): the command does exactly this and nothing else, and the engine goes on (R216). -/
def raiseFault (c : Cause) (s : State) : Result := .next (s.recordFault c)

/-- Clearing a fault, `ERR <- 0; CAUSE <- 0` (spec/45_system.md R201). Nothing was entered, so there is
nothing else to return from (R216). -/
def State.clearFault (s : State) : State := { s with err := false, cause := .none }

/-- Every register to its reset value (spec/10_state.md R39), M untouched: what RESET (R240) and ZEROIZE
(R200) both do. The parameter MEMSIZE and the host's own fields are no registers. -/
def State.resetRegisters (s : State) : State :=
  { s with
    key := Block.zero, blk := Block.zero, rk := none, err := false, cause := .none,
    src := 0#32, dst := 0#32, len := 0#32 }

end Sys2Proof.Machine
end

