-- ==== Sys2Proof/Machine/Operands.lean ====
section
/-! DEFINITION. Where the commands take their operands from (spec/30_encoding.md R93): the round index
of ARK, the stored schedule, and the ranges of ECBD. -/

namespace Sys2Proof.Machine

open Sys2Proof

/-- R93: `rnd` as a round index, an unsigned number; 0 to 10 are legal, 11 to 15 are not. -/
def roundIndex (r : BitVec 4) : Option (Fin 11) :=
  if h : r.toNat ≤ 10 then some ⟨r.toNat, Nat.lt_succ_of_le h⟩ else none

/-- The stored schedule as an operand: `if KVALID = 0 then raise Fault(NOKEY)`, else go on with RK
(R162, R181, R183, R191). -/
def withSchedule (s : State) (k : Schedule → Result) : Result :=
  match s.rk with
  | none => raiseFault .nokey s
  | some K => k K

/-- `n = LEN` as a natural number (spec/44_ecb.md R191). -/
def State.ecbLen (s : State) : Nat := s.len.toNat

/-- `s = SRC` as a natural number (R191). -/
def State.ecbSrc (s : State) : Nat := s.src.toNat

/-- `d = DST` as a natural number (R191). -/
def State.ecbDst (s : State) : Nat := s.dst.toNat

end Sys2Proof.Machine
end

