-- ==== Sys2Proof/Machine/RoundTransforms.lean ====
section
/-! DEFINITION. The round transformations as functions on blocks, and the seven commands that apply them
to BLK (spec/42_round_transforms.md R160 to R173). -/

namespace Sys2Proof

/-- R161: `AddRoundKey(s, k)[j] = s[j] ^ k[j]`. -/
def addRoundKey (s k : Block) : Block := s.xor k

/-- R163: `SubBytes(s)[j] = S(s[j])`. -/
def subBytes (s : Block) : Block := s.map S

/-- R163: `InvSubBytes(s)[j] = IS(s[j])`. -/
def invSubBytes (s : Block) : Block := s.map IS

/-- R166: row `r` is left-rotated by `r`: row r, column c takes the byte of column (c + r) mod 4. -/
def shiftRows (s : Block) : Block := Block.ofMatrix fun r c => s.at r (c + r)

/-- R168: row `r` is right-rotated by `r`: row r, column c takes the byte of column (c - r) mod 4. -/
def invShiftRows (s : Block) : Block := Block.ofMatrix fun r c => s.at r (c - r)

/-- R170: one column through the matrix `[[2,3,1,1],[1,2,3,1],[1,1,2,3],[3,1,1,2]]`. -/
def mixColumn (a : Column) : Column where
  r0 := gmul a.r0 2#8 ^^^ gmul a.r1 3#8 ^^^ a.r2 ^^^ a.r3
  r1 := a.r0 ^^^ gmul a.r1 2#8 ^^^ gmul a.r2 3#8 ^^^ a.r3
  r2 := a.r0 ^^^ a.r1 ^^^ gmul a.r2 2#8 ^^^ gmul a.r3 3#8
  r3 := gmul a.r0 3#8 ^^^ a.r1 ^^^ a.r2 ^^^ gmul a.r3 2#8

/-- R172: one column through the inverse matrix. -/
def invMixColumn (a : Column) : Column where
  r0 := gmul a.r0 14#8 ^^^ gmul a.r1 11#8 ^^^ gmul a.r2 13#8 ^^^ gmul a.r3 9#8
  r1 := gmul a.r0 9#8 ^^^ gmul a.r1 14#8 ^^^ gmul a.r2 11#8 ^^^ gmul a.r3 13#8
  r2 := gmul a.r0 13#8 ^^^ gmul a.r1 9#8 ^^^ gmul a.r2 14#8 ^^^ gmul a.r3 11#8
  r3 := gmul a.r0 11#8 ^^^ gmul a.r1 13#8 ^^^ gmul a.r2 9#8 ^^^ gmul a.r3 14#8

/-- `f` on each of the four columns, independently. -/
def Block.mapCols (f : Column → Column) (s : Block) : Block := ⟨f s.c0, f s.c1, f s.c2, f s.c3⟩

/-- R170: `MixColumns(s)`. -/
def mixColumns (s : Block) : Block := s.mapCols mixColumn

/-- R172: `InvMixColumns(s)`. -/
def invMixColumns (s : Block) : Block := s.mapCols invMixColumn

end Sys2Proof

namespace Sys2Proof.Machine

open Sys2Proof

/-- R160: a command that applies `f` to BLK: all inputs from the old BLK, all 16 bytes written, nothing
else changed. -/
def applyToBlk (f : Block → Block) (s : State) : Result := .next (s.setBlk (f s.blk))

/-- ARK r (R162). A `rnd` of 11 to 15 is the illegal command whatever KVALID is (R96, R202). -/
def execArk (r : BitVec 4) (s : State) : Result :=
  match roundIndex r with
  | none => raiseFault .illcmd s
  | some i => withSchedule s fun K => applyToBlk (fun b => addRoundKey b (K.get i)) s

/-- SUBB (R164). -/
def execSubb (s : State) : Result := applyToBlk subBytes s

/-- ISUBB (R165). -/
def execIsubb (s : State) : Result := applyToBlk invSubBytes s

/-- SHROW (R167). -/
def execShrow (s : State) : Result := applyToBlk shiftRows s

/-- ISHROW (R169). -/
def execIshrow (s : State) : Result := applyToBlk invShiftRows s

/-- MIXC (R171). -/
def execMixc (s : State) : Result := applyToBlk mixColumns s

/-- IMIXC (R173). -/
def execImixc (s : State) : Result := applyToBlk invMixColumns s

end Sys2Proof.Machine
end

