-- ==== Sys2Proof/Machine/BlockCipher.lean ====
section
/-! DEFINITION. Full-block encryption and decryption, ENCB and DECB (spec/43_block_cipher.md R180 to
R183). -/

namespace Sys2Proof

/-- R180: one of the nine rounds 1 to 9: SubBytes, ShiftRows, MixColumns, AddRoundKey with K[r]. -/
def encryptRound (K : Schedule) (t : Block) (r : Fin 11) : Block :=
  addRoundKey (mixColumns (shiftRows (subBytes t))) (K.get r)

/-- R180: the final round 10, without MixColumns. -/
def encryptLastRound (K : Schedule) (t : Block) : Block :=
  addRoundKey (shiftRows (subBytes t)) (K.get 10)

/-- R180: `Encrypt(s, K)`. -/
def encrypt (s : Block) (K : Schedule) : Block :=
  encryptLastRound K
    ([1, 2, 3, 4, 5, 6, 7, 8, 9].foldl (encryptRound K) (addRoundKey s (K.get 0)))

/-- R182: the first steps: AddRoundKey with K[10], InvShiftRows, InvSubBytes. -/
def decryptFirstRound (K : Schedule) (s : Block) : Block :=
  invSubBytes (invShiftRows (addRoundKey s (K.get 10)))

/-- R182: one of the nine rounds 9 down to 1: AddRoundKey with K[r], InvMixColumns, InvShiftRows,
InvSubBytes. -/
def decryptRound (K : Schedule) (t : Block) (r : Fin 11) : Block :=
  invSubBytes (invShiftRows (invMixColumns (addRoundKey t (K.get r))))

/-- R182: `Decrypt(s, K)`; the round keys are the unexpanded schedule's own, in the order 10 to 0. -/
def decrypt (s : Block) (K : Schedule) : Block :=
  addRoundKey
    ([9, 8, 7, 6, 5, 4, 3, 2, 1].foldl (decryptRound K) (decryptFirstRound K s)) (K.get 0)

end Sys2Proof

namespace Sys2Proof.Machine

open Sys2Proof

/-- ENCB (R181): NOKEY without a schedule, else `BLK <- Encrypt(BLK, RK)`. -/
def execEncb (s : State) : Result := withSchedule s fun K => applyToBlk (fun b => encrypt b K) s

/-- DECB (R183): NOKEY without a schedule, else `BLK <- Decrypt(BLK, RK)`. -/
def execDecb (s : State) : Result := withSchedule s fun K => applyToBlk (fun b => decrypt b K) s

end Sys2Proof.Machine
end

