-- ==== Sys2Proof/Machine/Ecb.lean ====
section
/-! DEFINITION. The ECB-mode decryption loop: the function of spec/44_ecb.md R190, the checks of R191 and
the command ECBD of R192. -/

namespace Sys2Proof

/-- The block of the first sixteen bytes of a sequence of at least sixteen. -/
def Block.ofBytes (bs : List Byte) : Block := Block.ofFn fun j => bs.getD j.val 0#8

/-- R190: the first `n` blocks of `ct`, each decrypted on its own, in their order. -/
def ecbDecryptBlocks (K : Schedule) : Nat → List Byte → List Byte
  | 0, _ => []
  | n + 1, ct => (decrypt (Block.ofBytes ct) K).toBytes ++ ecbDecryptBlocks K n (ct.drop 16)

/-- R190: `EcbDecrypt(ct, K)`, not defined when the length of `ct` is no multiple of 16. -/
def ecbDecrypt (ct : List Byte) (K : Schedule) : Option (List Byte) :=
  if ct.length % 16 = 0 then some (ecbDecryptBlocks K (ct.length / 16) ct) else none

end Sys2Proof

namespace Sys2Proof.Machine

open Sys2Proof

/-- R191 check 2: LEN is no multiple of 16. -/
def State.ecbLengthBad (s : State) : Bool := decide (s.ecbLen % 16 ≠ 0)

/-- R191 check 3: LEN > 0 and a range passes MEMSIZE; sums in natural numbers, without wrap-around
(spec/20_memory.md R64). -/
def State.ecbOutOfBounds (s : State) : Bool :=
  decide (0 < s.ecbLen ∧ (s.memSize < s.ecbSrc + s.ecbLen ∨ s.memSize < s.ecbDst + s.ecbLen))

/-- R191 check 4: LEN > 0 and the two ranges share at least one byte. -/
def State.ecbOverlap (s : State) : Bool :=
  decide (0 < s.ecbLen ∧ s.ecbSrc < s.ecbDst + s.ecbLen ∧ s.ecbDst < s.ecbSrc + s.ecbLen)

/-- R192, the loop body for block `i`: read it, decrypt it (`f`), write it, leave it in BLK. -/
def ecbBlockStep (f : Block → Block) (i : Nat) (s : State) : State :=
  let p := f (s.mem.readBlock (s.ecbSrc + 16 * i))
  (s.setMem (s.mem.writeBlock (s.ecbDst + 16 * i) p)).setBlk p

/-- R192: `n` blocks in ascending order, the first of them block `i`. -/
def ecbLoop (f : Block → Block) : Nat → Nat → State → State
  | 0, _, s => s
  | n + 1, i, s => ecbLoop f n (i + 1) (ecbBlockStep f i s)

/-- ECBD (R192): the four checks in the order of R191, all before the first access; then the loop over
LEN div 16 blocks, which cannot fail (R215). SRC, DST and LEN are not advanced. -/
def execEcbd (s : State) : Result :=
  withSchedule s fun K =>
    if s.ecbLengthBad then raiseFault .length s
    else if s.ecbOutOfBounds then raiseFault .bounds s
    else if s.ecbOverlap then raiseFault .overlap s
    else .next (ecbLoop (fun c => decrypt c K) (s.ecbLen / 16) 0 s)

end Sys2Proof.Machine
end

