-- ==== Sys2Proof/Machine/KeySchedule.lean ====
section
/-! DEFINITION. The key schedule and KEXP (spec/41_key_schedule.md R150 to R153). -/

namespace Sys2Proof

/-- R151: the next schedule word `W[i]` from `W[i-4]` and `W[i-1]`, for i ≥ 4. -/
def nextWord (i : Nat) (wMinus4 wMinus1 : Word) : Word :=
  if i % 4 = 0 then wMinus4 ^^^ subWord (rotWord wMinus1) ^^^ rconW (i / 4)
  else wMinus4 ^^^ wMinus1

/-- R151: `n` schedule words, given the four words `W[i-4]` to `W[i-1]` of which the first is the first
one listed; each later word is computed from earlier ones in ascending order. -/
def scheduleWordsFrom : Nat → Nat → Word → Word → Word → Word → List Word
  | 0, _, _, _, _, _ => []
  | n + 1, i, w0, w1, w2, w3 => w0 :: scheduleWordsFrom n (i + 1) w1 w2 w3 (nextWord i w0 w3)

/-- R150, R151: the 44 words W[0] to W[43]; W[0] to W[3] are the key's words, big-endian. -/
def scheduleWords (key : Block) : List Word :=
  scheduleWordsFrom 44 4 (key.word 0) (key.word 1) (key.word 2) (key.word 3)

/-- R152: round key `r` is words W[4r] to W[4r+3] packed big-endian into a block. -/
def roundKeyOf (ws : List Word) (r : Nat) : Block :=
  Block.ofWords (ws.getD (4 * r) 0#32) (ws.getD (4 * r + 1) 0#32) (ws.getD (4 * r + 2) 0#32)
    (ws.getD (4 * r + 3) 0#32)

/-- R151, R152: `ExpandKey(key)`. -/
def expandKey (key : Block) : Schedule :=
  Schedule.ofFn fun r => roundKeyOf (scheduleWords key) r.val

end Sys2Proof

namespace Sys2Proof.Machine

open Sys2Proof

/-- KEXP (R153): `RK <- ExpandKey(KEY); KVALID <- 1`. It never faults. -/
def execKexp (s : State) : Result := .next (s.setSchedule (expandKey s.key))

end Sys2Proof.Machine
end

