-- ==== Sys2Proof/Machine/System.lean ====
section
/-! DEFINITION. ZEROIZE, CLRERR and the illegal command (spec/45_system.md R200 to R202). -/

namespace Sys2Proof.Machine

open Sys2Proof

/-- ZEROIZE (R200): every element but M to its reset value. -/
def execZeroize (s : State) : Result := .next s.resetRegisters

/-- CLRERR (R201): `ERR <- 0; CAUSE <- 0`. -/
def execClrerr (s : State) : Result := .next s.clearFault

/-- The illegal command (R202), which every word that R95 calls illegal performs: `raise Fault(ILLCMD)`,
whatever KVALID is. -/
def execIllegal (s : State) : Result := raiseFault .illcmd s

end Sys2Proof.Machine
end

