-- ==== Sys2Proof/Machine/Dispatch.lean ====
section
/-! DEFINITION. The dispatch of a decoded command to its meaning (spec/30_encoding.md R94). -/

namespace Sys2Proof.Machine

open Sys2Proof

def exec (i : Instr) (s : State) : Host.Outcome State Fault Refusal :=
  match i with
  | .kexp => Sys2Proof.Machine.execKexp s
  | .ark r => Sys2Proof.Machine.execArk r s
  | .subb => Sys2Proof.Machine.execSubb s
  | .isubb => Sys2Proof.Machine.execIsubb s
  | .shrow => Sys2Proof.Machine.execShrow s
  | .ishrow => Sys2Proof.Machine.execIshrow s
  | .mixc => Sys2Proof.Machine.execMixc s
  | .imixc => Sys2Proof.Machine.execImixc s
  | .encb => Sys2Proof.Machine.execEncb s
  | .decb => Sys2Proof.Machine.execDecb s
  | .ecbd => Sys2Proof.Machine.execEcbd s
  | .zeroize => Sys2Proof.Machine.execZeroize s
  | .clrerr => Sys2Proof.Machine.execClrerr s

end Sys2Proof.Machine
end

