-- ==== Sys2Proof/Machine/Registers.lean ====
section
/-! DEFINITION. The register block (spec/10_state.md R21 to R24, R27, R31 to R34): names, offsets, which
access has a meaning, and what a read returns. The block stands at REGBASE, on which no rule depends
(spec/00_scope.md R6), so registers are named by offset (log entry 8). -/

namespace Sys2Proof.Machine

open Sys2Proof

/-- The registers of R33. -/
inductive Reg where
  | cmd
  | status
  | src
  | dst
  | len
  /-- KEY0 to KEY3. -/
  | key (i : Fin 4)
  /-- BLK0 to BLK3. -/
  | blk (i : Fin 4)
  /-- RKW0 to RKW43. -/
  | rkw (i : Fin 44)
  deriving DecidableEq, Repr

/-- R33: the byte offset of a register. -/
def Reg.offset : Reg → Nat
  | .cmd => 0x00
  | .status => 0x04
  | .src => 0x08
  | .dst => 0x0C
  | .len => 0x10
  | .key i => 0x20 + 4 * i.val
  | .blk i => 0x30 + 4 * i.val
  | .rkw i => 0x40 + 4 * i.val

/-- R33: the register that holds word `k` of the block (offset `4 * k`); `none` at the reserved offsets
0x14 to 0x1C and 0xF0 to 0xFC. -/
def regOfWord (k : Nat) : Option Reg :=
  if k = 0 then some .cmd
  else if k = 1 then some .status
  else if k = 2 then some .src
  else if k = 3 then some .dst
  else if k = 4 then some .len
  else if k < 8 then none
  else if h : k - 8 < 4 then some (.key ⟨k - 8, h⟩)
  else if h : k - 12 < 4 then some (.blk ⟨k - 12, h⟩)
  else if h : k - 16 < 44 then some (.rkw ⟨k - 16, h⟩)
  else none

/-- R34: only an aligned 32-bit access at an offset of R33 has a meaning; any other is refused. Which of
several reasons is named: width, then alignment, then a reserved offset (log entry 7). -/
def accessedReg (bits : Nat) (off : BitVec 8) : Except Refusal Reg :=
  if bits ≠ 32 then .error (.accessNotWord bits)
  else if off.toNat % 4 ≠ 0 then .error (.misalignedOffset off)
  else match regOfWord (off.toNat / 4) with
    | some r => .ok r
    | none => .error (.reservedOffset off)

/-- R27: what RKWi reads, `W[i]` when KVALID = 1 and 0 when KVALID = 0. -/
def State.rkwRead (s : State) (i : Fin 44) : Word :=
  match s.rk with
  | some K => K.word i
  | none => 0#32

/-- What a host read of a register returns (R21, R23, R24, R27, R31, R32). -/
def State.readReg (s : State) : Reg → Word
  | .cmd => 0#32
  | .status => s.statusWord
  | .src => s.src
  | .dst => s.dst
  | .len => s.len
  | .key i => s.key.word i
  | .blk i => s.blk.word i
  | .rkw i => s.rkwRead i

end Sys2Proof.Machine
end

