-- ==== Sys2Proof/Machine/HostOps.lean ====
section
/-! DEFINITION. Performing one host operation (spec/70_reset_and_hazards.md R246): register accesses,
accesses to M, RESET. -/

namespace Sys2Proof.Machine

open Sys2Proof

/-- A host write of `w` to CMD (spec/10_state.md R31): the command that `w` encodes, to completion; an
illegal word is the illegal command (spec/30_encoding.md R96). The word is not stored. -/
def performWord (w : Word) (s : State) : Result :=
  match decode w with
  | .ok i => exec i s
  | .error _ => execIllegal s

/-- A 32-bit host write to a register (R246): CMD performs, STATUS and RKWi ignore it (R27, R32), the
others store all 32 bits (R22 to R24, R35). -/
def writeReg (r : Reg) (v : Word) (s : State) : Result :=
  match r with
  | .cmd => performWord v s
  | .status => .next s
  | .src => .next (s.setSrc v)
  | .dst => .next (s.setDst v)
  | .len => .next (s.setLen v)
  | .key i => .next (s.writeKeyWord i v)
  | .blk i => .next (s.writeBlkWord i v)
  | .rkw _ => .next s

/-- A host register write, refused where R34 gives it no meaning. -/
def hostWriteReg (bits : Nat) (off : BitVec 8) (v : Word) (s : State) : Result :=
  match accessedReg bits off with
  | .ok r => writeReg r v s
  | .error e => .refused e

/-- A host register read: it returns a word and changes nothing (spec/20_memory.md R68); refused where
R34 gives it no meaning. -/
def hostReadReg (bits : Nat) (off : BitVec 8) (s : State) : Result :=
  match accessedReg bits off with
  | .ok r => .next (s.record (.word (s.readReg r)))
  | .error e => .refused e

/-- `HostWriteMem(addr, bytes)` (spec/20_memory.md R66), refused when it passes MEMSIZE. -/
def hostWriteMem (addr : Nat) (bytes : List Byte) (s : State) : Result :=
  if addr + bytes.length ≤ s.memSize then .next (s.setMem (s.mem.writeBytes addr bytes))
  else .refused (.outsideMemory addr bytes.length)

/-- `HostReadMem(addr, n)` (R66), refused when it passes MEMSIZE. -/
def hostReadMem (addr n : Nat) (s : State) : Result :=
  if addr + n ≤ s.memSize then .next (s.record (.bytes (s.mem.readBytes addr n)))
  else .refused (.outsideMemory addr n)

/-- RESET (spec/70_reset_and_hazards.md R240): the registers to their reset values, M untouched. -/
def hostReset (s : State) : Result := .next s.resetRegisters

/-- One host operation, each one step (R246). -/
def performOp (op : HostOp) (s : State) : Result :=
  match op with
  | .writeReg bits off v => hostWriteReg bits off v s
  | .readReg bits off => hostReadReg bits off s
  | .writeMem addr bytes => hostWriteMem addr bytes s
  | .readMem addr n => hostReadMem addr n s
  | .reset => hostReset s

/-- The bus operation that writes command word `w` to CMD (spec/30_encoding.md R98). -/
def commandWrite (w : Word) : HostOp := .writeReg 32 0x00#8 w

/-- The host takes operation `op` next, before what its script already holds. -/
def State.hostNext (s : State) (op : HostOp) : State := { s with script := op :: s.script }

/-- The state once the host has taken the next operation from its script; `rest` is what remains. -/
def State.withScript (s : State) (rest : List HostOp) : State := { s with script := rest }

end Sys2Proof.Machine
end

