-- ==== Sys2Proof/Machine/Step.lean ====
section
/-! DEFINITION. One step: the host's next operation (spec/00_scope.md R7, spec/70_reset_and_hazards.md
R246). The engine has no program counter and fetches nothing (spec/10_state.md R36); its commands come
from the host's script, in order (log entry 3). -/

namespace Sys2Proof.Machine

open Sys2Proof

/-- The next step. With no host operation left, nothing happens: "the engine does nothing until the
host writes CMD" (R241; log entry 4). -/
def step (s : State) : Host.Outcome State Fault Refusal :=
  match s.script with
  | [] => .next s
  | op :: rest => performOp op (s.withScript rest)

/-- `s` with the write of command word `w` (its `nbits` bits, zeros above) to CMD as the host's next
operation, which is where `step` takes its next command from (log entry 3). -/
def State.withFetchWord (s : State) (nbits w : Nat) : State :=
  s.hostNext (commandWrite (BitVec.ofNat 32 (w % 2 ^ nbits)))

end Sys2Proof.Machine
end

