-- ==== Sys2Proof/Machine/Script.lean ====
section
/-! DEFINITION. Host scripts: the statements of spec/30_encoding.md R98 and the pseudo-statements of R99,
each as the host operations it stands for and the values it predicts. -/

namespace Sys2Proof.Machine

open Sys2Proof

/-- A line of a host script. An expected value is an assertion for tests and changes nothing that the
machine does (R98). -/
inductive ScriptLine where
  /-- `WR reg, value`. -/
  | wr (r : Reg) (v : Word)
  /-- `RD reg` or `RD reg == value`. -/
  | rd (r : Reg) (expected : Option Word)
  /-- A mnemonic, or `ARK r`. -/
  | command (i : Instr)
  /-- `WM addr, hexbytes`. -/
  | wm (addr : Nat) (bytes : List Byte)
  /-- `RM addr, n` or `RM addr, n == hexbytes`. -/
  | rm (addr n : Nat) (expected : Option (List Byte))
  /-- `RESET`. -/
  | reset
  /-- `LDKEY k`. -/
  | ldkey (k : Block)
  /-- `SETKEY k`. -/
  | setkey (k : Block)
  /-- `LDBLK b`. -/
  | ldblk (b : Block)
  /-- `RDBLK` or `RDBLK == b`. -/
  | rdblk (expected : Option Block)
  /-- `ENCB.SEQ`. -/
  | encbSeq
  /-- `DECB.SEQ`. -/
  | decbSeq
  /-- `ECBDEC src, dst, len`. -/
  | ecbdec (src dst len : Word)
  deriving DecidableEq, Repr

/-- R98: `WR reg, value` is a 32-bit write at the register's offset. -/
def writeOp (r : Reg) (v : Word) : HostOp := .writeReg 32 (BitVec.ofNat 8 r.offset) v

/-- R98: `RD reg` is a 32-bit read at the register's offset. -/
def readOp (r : Reg) : HostOp := .readReg 32 (BitVec.ofNat 8 r.offset)

/-- R98: performing a command is exactly `WR CMD, word`. -/
def commandOp (i : Instr) : HostOp := commandWrite (encode i)

/-- R99: `LDKEY k`. -/
def ldkeyOps (k : Block) : List HostOp :=
  [writeOp (.key 0) (k.word 0), writeOp (.key 1) (k.word 1), writeOp (.key 2) (k.word 2),
   writeOp (.key 3) (k.word 3)]

/-- R99: `LDBLK b`. -/
def ldblkOps (b : Block) : List HostOp :=
  [writeOp (.blk 0) (b.word 0), writeOp (.blk 1) (b.word 1), writeOp (.blk 2) (b.word 2),
   writeOp (.blk 3) (b.word 3)]

/-- R99: `RDBLK`. -/
def rdblkOps : List HostOp :=
  [readOp (.blk 0), readOp (.blk 1), readOp (.blk 2), readOp (.blk 3)]

/-- R99: the four commands of round `r` in `ENCB.SEQ`. -/
def encbRoundCommands (r : BitVec 4) : List Instr := [.subb, .shrow, .mixc, .ark r]

/-- R99: the 40 commands of `ENCB.SEQ`. -/
def encbSeqCommands : List Instr :=
  .ark 0#4 :: ([1, 2, 3, 4, 5, 6, 7, 8, 9].flatMap encbRoundCommands ++ [.subb, .shrow, .ark 10#4])

/-- R99: the four commands of round `r` in `DECB.SEQ`. -/
def decbRoundCommands (r : BitVec 4) : List Instr := [.ishrow, .isubb, .ark r, .imixc]

/-- R99: the 40 commands of `DECB.SEQ`. -/
def decbSeqCommands : List Instr :=
  .ark 10#4 :: ([9, 8, 7, 6, 5, 4, 3, 2, 1].flatMap decbRoundCommands ++ [.ishrow, .isubb, .ark 0#4])

/-- R98, R99: the host operations of a line; `none` where an assembler rejects it (`ARK r`, r > 10). -/
def ScriptLine.ops : ScriptLine → Option (List HostOp)
  | .wr r v => some [writeOp r v]
  | .rd r _ => some [readOp r]
  | .command i => (assemble i).map fun w => [commandWrite w]
  | .wm a bs => some [.writeMem a bs]
  | .rm a n _ => some [.readMem a n]
  | .reset => some [.reset]
  | .ldkey k => some (ldkeyOps k)
  | .setkey k => some (ldkeyOps k ++ [commandOp .kexp])
  | .ldblk b => some (ldblkOps b)
  | .rdblk _ => some rdblkOps
  | .encbSeq => some (encbSeqCommands.map commandOp)
  | .decbSeq => some (decbSeqCommands.map commandOp)
  | .ecbdec src dst len =>
    some [writeOp .src src, writeOp .dst dst, writeOp .len len, commandOp .ecbd]

/-- R98: the values a line's reads are predicted to return, in order; `none` where it predicts nothing. -/
def ScriptLine.predictions : ScriptLine → List (Option Returned)
  | .rd _ v => [v.map .word]
  | .rm _ _ bs => [bs.map .bytes]
  | .rdblk b => [b.map fun b => .word (b.word 0), b.map fun b => .word (b.word 1),
      b.map fun b => .word (b.word 2), b.map fun b => .word (b.word 3)]
  | .wr _ _ => []
  | .command _ => []
  | .wm _ _ => []
  | .reset => []
  | .ldkey _ => []
  | .setkey _ => []
  | .ldblk _ => []
  | .encbSeq => []
  | .decbSeq => []
  | .ecbdec _ _ _ => []

/-- R247: the host operations of a run, line after line; `none` if a line is rejected. -/
def scriptOps : List ScriptLine → Option (List HostOp)
  | [] => some []
  | l :: ls => match l.ops, scriptOps ls with
    | some o, some os => some (o ++ os)
    | _, _ => none

/-- Whether what a run returned meets every prediction of its script, in order (R98). -/
def meetsPredictions : List (Option Returned) → List Returned → Bool
  | [], [] => true
  | none :: ps, _ :: rs => meetsPredictions ps rs
  | some p :: ps, r :: rs => decide (p = r) && meetsPredictions ps rs
  | [], _ :: _ => false
  | _ :: _, [] => false

end Sys2Proof.Machine
end

