-- ==== Sys2Proof/Safety.lean ====
section
/-! DEFINITION. The terms that claims use: the invariant of the machine, what a command leaves unchanged,
what a fault leaves, sequences of commands, and host operations without a meaning. -/

namespace Sys2Proof.Machine

open Sys2Proof

/-- M is in canonical form, lists only bytes that exist (spec/20_memory.md R60), and MEMSIZE is within
its bound (spec/00_scope.md R6). -/
abbrev State.MemOk (s : State) : Prop := s.mem.wf ∧ s.mem.inside s.memSize ∧ s.memSize ≤ 2 ^ 32

/-- `KVALID = 1` implies `RK = ExpandKey(KEY)` (spec/10_state.md R28). -/
abbrev State.ScheduleOk (s : State) : Prop := s.rk = none ∨ s.rk = some (expandKey s.key)

/-- CAUSE is 0 exactly when ERR = 0 (spec/10_state.md R20, spec/60_exceptions.md R211). -/
abbrev State.FaultOk (s : State) : Prop := s.err = false ↔ s.cause = Cause.none

/-- The invariant that every step keeps. -/
abbrev State.Inv (s : State) : Prop := s.MemOk ∧ s.ScheduleOk ∧ s.FaultOk

/-- The elements of the architectural state (spec/10_state.md R20); KVALID is part of `rk` (R26). -/
inductive Element where
  | key
  | blk
  | rk
  | err
  | cause
  | src
  | dst
  | len
  | mem
  deriving DecidableEq, Repr

/-- `t` differs from `s` at most in the named elements. M is compared byte by byte, as it reads; MEMSIZE
and the host's own fields are the same. -/
def State.UnchangedExcept (xs : List Element) (s t : State) : Prop :=
  (Element.key ∈ xs ∨ t.key = s.key) ∧
  (Element.blk ∈ xs ∨ t.blk = s.blk) ∧
  (Element.rk ∈ xs ∨ t.rk = s.rk) ∧
  (Element.err ∈ xs ∨ t.err = s.err) ∧
  (Element.cause ∈ xs ∨ t.cause = s.cause) ∧
  (Element.src ∈ xs ∨ t.src = s.src) ∧
  (Element.dst ∈ xs ∨ t.dst = s.dst) ∧
  (Element.len ∈ xs ∨ t.len = s.len) ∧
  (Element.mem ∈ xs ∨ ∀ a, t.mem.readByte a = s.mem.readByte a) ∧
  t.memSize = s.memSize ∧ t.script = s.script ∧ t.returned = s.returned

/-- `t` is `s` after `raise Fault(c)` (spec/60_exceptions.md R214). -/
def State.FaultEntered (c : Cause) (s t : State) : Prop :=
  t.err = true ∧ t.cause = (if s.err then s.cause else c) ∧
  State.UnchangedExcept [.err, .cause] s t

/-- spec/60_exceptions.md R212: which command can raise which cause. The illegal word, which is no
command, raises ILLCMD. -/
def mayRaise : Instr → Cause → Bool
  | .kexp, _ => false
  | .ark _, c => c = .nokey
  | .subb, _ => false
  | .isubb, _ => false
  | .shrow, _ => false
  | .ishrow, _ => false
  | .mixc, _ => false
  | .imixc, _ => false
  | .encb, c => c = .nokey
  | .decb, c => c = .nokey
  | .ecbd, c => c = .nokey || c = .length || c = .bounds || c = .overlap
  | .zeroize, _ => false
  | .clrerr, _ => false

/-- Commands performed one after the other, with nothing between them. -/
def execAll : List Instr → State → Result
  | [], s => .next s
  | i :: is, s => match exec i s with
    | .next t => execAll is t
    | .fault r => .fault r
    | .refused r => .refused r

/-- The byte offsets of the register block that are reserved (spec/10_state.md R34). -/
def reservedOffsets : List Nat := [0x14, 0x18, 0x1C, 0xF0, 0xF4, 0xF8, 0xFC]

/-- A register access without a meaning (R34): not 32 bits wide, misaligned, or at a reserved offset. -/
def meaninglessAccess (bits : Nat) (off : BitVec 8) : Bool :=
  decide (bits ≠ 32 ∨ off.toNat % 4 ≠ 0 ∨ off.toNat ∈ reservedOffsets)

/-- A host operation that the spec gives no meaning, on a memory of `n` bytes (R34; spec/20_memory.md
R66). -/
def HostOp.meaningless (n : Nat) : HostOp → Bool
  | .writeReg bits off _ => meaninglessAccess bits off
  | .readReg bits off => meaninglessAccess bits off
  | .writeMem a bs => decide (n < a + bs.length)
  | .readMem a k => decide (n < a + k)
  | .reset => false

end Sys2Proof.Machine
end

