-- ==== Sys2Proof/Machine/Run.lean ====
section
/-! DEFINITION. Runs of a host script (spec/70_reset_and_hazards.md R247): how a run ends, at which points
its script expects a fault, and when it has gone wrong. -/

namespace Sys2Proof.Machine

open Sys2Proof

/-- `n` steps, one after the other, stopping where one is refused. -/
def stepTimes : Nat → State → Result
  | 0, s => .next s
  | n + 1, s => match step s with
    | .next t => stepTimes n t
    | .fault r => .fault r
    | .refused r => .refused r

/-- A run (R247): the statements of the host's script performed from state `s`, each one step. The result is
the final state, which holds what the reads returned. -/
def State.run (s : State) : Result := stepTimes s.script.length s

/-- The end of a run (R247): no statement is left. -/
def State.finished (s : State) : Bool := s.script.isEmpty

/-- The operations by which a script itself hides a fault (R247): CLRERR, ZEROIZE and RESET, which alone clear
ERR (spec/10_state.md R29). -/
def HostOp.clearsFault : HostOp → Bool
  | .writeReg bits off v =>
    decide (bits = 32 ∧ off = 0x00#8 ∧ (decode v = .ok .clrerr ∨ decode v = .ok .zeroize))
  | .readReg _ _ => false
  | .writeMem _ _ => false
  | .readMem _ _ => false
  | .reset => true

/-- R247 at one point of a run, `expected` saying whether the script expects ERR = 1 there: ERR = 1
unexpectedly, or the next operation is one that a model refuses. -/
def State.wrongAt (expected : Bool) (s : State) : Bool :=
  (s.err && !expected) || (match s.script with
    | [] => false
    | op :: _ => op.meaningless s.memSize)

/-- R247 over `n` steps from `s`, at the point before each step and at the point after the last. The list says
for each point, in order, whether the script expects ERR = 1 there; a point past its end expects none. -/
def goesWrong : Nat → List Bool → State → Bool
  | 0, es, s => s.wrongAt (es.headD false)
  | n + 1, es, s => s.wrongAt (es.headD false) || (match step s with
    | .next t => goesWrong n es.tail t
    | .fault _ => true
    | .refused _ => true)

/-- R247: the run of the host's script from `s` has gone wrong. `expected` holds one entry for the start of the
run and one for the point after each host operation; `[]` is a script that expects no fault anywhere. -/
def State.goneWrong (expected : List Bool) (s : State) : Bool :=
  goesWrong s.script.length expected s

/-- The ERR bit that a statement predicts: bit 1 of the value of `RD STATUS == value` (spec/30_encoding.md R98,
spec/10_state.md R32). -/
def ScriptLine.predictedErr : ScriptLine → Option Bool
  | .rd .status (some v) => some (v.getLsbD 1)
  | _ => none

/-- Whether a statement clears ERR and CAUSE. -/
def ScriptLine.clearsFault (l : ScriptLine) : Bool := (l.ops.getD []).any HostOp.clearsFault

/-- Whether the next prediction of STATUS expects ERR = 1, no statement before it clearing ERR. -/
def upcomingErr : List ScriptLine → Bool
  | [] => false
  | l :: ls => match l.predictedErr with
    | some b => b
    | none => !l.clearsFault && upcomingErr ls

/-- Whether ERR = 1 is known to the script after the statement `l`, having been `known` before it: the last
prediction of STATUS had it and nothing has cleared it since. -/
def knownErr (known : Bool) (l : ScriptLine) : Bool :=
  match l.predictedErr with
  | some b => b
  | none => known && !l.clearsFault

/-- Whether a script expects ERR = 1 after the statement `l`, `ls` being what follows: as `l` predicts, or else
where ERR = 1 is known or the next prediction of STATUS has it (DESIGN CHOICE, log entry 20). -/
def expectsErrAfter (known : Bool) (l : ScriptLine) (ls : List ScriptLine) : Bool :=
  match l.predictedErr with
  | some b => b
  | none => knownErr known l || upcomingErr ls

/-- The expectations after each host operation of a script's statements. -/
def expectedFrom : Bool → List ScriptLine → List Bool
  | _, [] => []
  | known, l :: ls =>
    List.replicate (l.ops.getD []).length (expectsErrAfter known l ls) ++
      expectedFrom (knownErr known l) ls

/-- The points at which a script expects ERR = 1, read from its predictions of STATUS (log entry 20): the start
of the run, then the point after each host operation. -/
def expectedPoints (ls : List ScriptLine) : List Bool := upcomingErr ls :: expectedFrom false ls

/-- R247: the run of a script from state `s` has gone wrong, by what the script itself predicts; `none` if a
line is rejected. -/
def State.scriptGoneWrong (s : State) (ls : List ScriptLine) : Option Bool :=
  (scriptOps ls).map fun ops => (s.withScript ops).goneWrong (expectedPoints ls)

end Sys2Proof.Machine
end

