-- ==== Sys2Proof/Certificates/Slice0/Obligations.lean ====
section
/-! DEFINITION. The statements for the provers, each with the rule of spec/ it rests on. -/

open Sys2Proof Sys2Proof.Machine

/-! ## Encoding -/

/-- R91, R92, R95: decoding the word of a well-formed command gives it back, ARK with every index. -/
def Obligations.DecodeOfEncode : Prop :=
  ∀ i : Instr, i.wellFormed = true → decode (encode i) = .ok i

/-- R95: a word that decodes is the word of the command it decodes to, and that command is well formed. -/
def Obligations.EncodeOfDecode : Prop :=
  ∀ (w : Word) (i : Instr), decode w = .ok i → i.wellFormed = true ∧ encode i = w

/-- R95, clause by clause, with the fields of R90 as arithmetic on the word. -/
def Obligations.DecodingFollowsItsClauses : Prop :=
  ∀ w : Word,
    let high := w.toNat / 4096
    let rnd := w.toNat / 256 % 16
    let op := w.toNat % 256
    (high ≠ 0 → ∃ e, decode w = .error e) ∧
    (high = 0 → op = 0x02 → rnd ≤ 10 → decode w = .ok (.ark (BitVec.ofNat 4 rnd))) ∧
    (high = 0 → op = 0x02 → 10 < rnd → ∃ e, decode w = .error e) ∧
    (high = 0 → op ≠ 0x02 → rnd ≠ 0 → ∃ e, decode w = .error e) ∧
    (high = 0 → rnd = 0 →
      (op = 0x01 → decode w = .ok .kexp) ∧ (op = 0x03 → decode w = .ok .subb) ∧
      (op = 0x04 → decode w = .ok .isubb) ∧ (op = 0x05 → decode w = .ok .shrow) ∧
      (op = 0x06 → decode w = .ok .ishrow) ∧ (op = 0x07 → decode w = .ok .mixc) ∧
      (op = 0x08 → decode w = .ok .imixc) ∧ (op = 0x09 → decode w = .ok .encb) ∧
      (op = 0x0A → decode w = .ok .decb) ∧ (op = 0x0B → decode w = .ok .ecbd) ∧
      (op = 0x0E → decode w = .ok .zeroize) ∧ (op = 0x0F → decode w = .ok .clrerr) ∧
      (op ∉ [0x01, 0x02, 0x03, 0x04, 0x05, 0x06, 0x07, 0x08, 0x09, 0x0A, 0x0B, 0x0E, 0x0F] →
        ∃ e, decode w = .error e)) ∧
    ((∃ e, decode w = .error e) ∨
      (∃ i, decode w = .ok i ∧ (i ∈ [.kexp, .subb, .isubb, .shrow, .ishrow, .mixc, .imixc, .encb,
        .decb, .ecbd, .zeroize, .clrerr] ∨ ∃ r : BitVec 4, r.toNat ≤ 10 ∧ i = .ark r)))

/-- R94: each row's mask, match and constraint. -/
def Obligations.OpcodeTableRows : Prop :=
  ∀ w : Word,
    (decode w = .ok .kexp ↔ w &&& 0xFFFFFFFF#32 = 0x00000001#32) ∧
    (∀ r, decode w = .ok (.ark r) ↔
      w &&& 0xFFFFF0FF#32 = 0x00000002#32 ∧ r.toNat = w.toNat / 256 % 16 ∧ r.toNat ≤ 10) ∧
    (decode w = .ok .subb ↔ w &&& 0xFFFFFFFF#32 = 0x00000003#32) ∧
    (decode w = .ok .isubb ↔ w &&& 0xFFFFFFFF#32 = 0x00000004#32) ∧
    (decode w = .ok .shrow ↔ w &&& 0xFFFFFFFF#32 = 0x00000005#32) ∧
    (decode w = .ok .ishrow ↔ w &&& 0xFFFFFFFF#32 = 0x00000006#32) ∧
    (decode w = .ok .mixc ↔ w &&& 0xFFFFFFFF#32 = 0x00000007#32) ∧
    (decode w = .ok .imixc ↔ w &&& 0xFFFFFFFF#32 = 0x00000008#32) ∧
    (decode w = .ok .encb ↔ w &&& 0xFFFFFFFF#32 = 0x00000009#32) ∧
    (decode w = .ok .decb ↔ w &&& 0xFFFFFFFF#32 = 0x0000000A#32) ∧
    (decode w = .ok .ecbd ↔ w &&& 0xFFFFFFFF#32 = 0x0000000B#32) ∧
    (decode w = .ok .zeroize ↔ w &&& 0xFFFFFFFF#32 = 0x0000000E#32) ∧
    (decode w = .ok .clrerr ↔ w &&& 0xFFFFFFFF#32 = 0x0000000F#32)

/-- R95, R96: of all 2^32 words exactly 23 are legal. -/
def Obligations.ExactlyTwentyThreeLegalWords : Prop :=
  ∀ w : Word, (∃ i, decode w = .ok i) ↔
    w ∈ [0x00000001#32, 0x00000002#32, 0x00000102#32, 0x00000202#32, 0x00000302#32, 0x00000402#32,
      0x00000502#32, 0x00000602#32, 0x00000702#32, 0x00000802#32, 0x00000902#32, 0x00000A02#32,
      0x00000003#32, 0x00000004#32, 0x00000005#32, 0x00000006#32, 0x00000007#32, 0x00000008#32,
      0x00000009#32, 0x0000000A#32, 0x0000000B#32, 0x0000000E#32, 0x0000000F#32]

/-- R94, R96: a few words written out from the table, and a few illegal ones. -/
def Obligations.SampleWordsDecode : Prop :=
  decode 0x00000001#32 = .ok .kexp ∧ decode 0x00000A02#32 = .ok (.ark 10#4) ∧
  decode 0x00000007#32 = .ok .mixc ∧ decode 0x00000009#32 = .ok .encb ∧
  decode 0x0000000B#32 = .ok .ecbd ∧ decode 0x0000000E#32 = .ok .zeroize ∧
  decode 0x00000000#32 = .error .unassignedOpcode ∧
  decode 0x00000B02#32 = .error .roundIndexAboveTen ∧
  decode 0x00000103#32 = .error .roundFieldNotZero ∧
  decode 0x00001001#32 = .error .nonZeroHighBits

/-! ## Steps -/

/-- R31: a host write of a word that decodes performs exactly that command, the write being taken from
the host's script (the model's own way of holding the host, log entry 3). -/
def Obligations.StepRunsDecodedCommand : Prop :=
  ∀ (s : State) (w : Word) (i : Instr) (rest : List HostOp),
    s.script = .writeReg 32 0x00#8 w :: rest → decode w = .ok i →
    step s = exec i { s with script := rest }

/-- R202, R214: a host write of an illegal word faults with ILLCMD and changes nothing else. -/
def Obligations.StepFaultsOnIllegalWord : Prop :=
  ∀ (s : State) (w : Word) (e : Illegal) (rest : List HostOp),
    s.script = .writeReg 32 0x00#8 w :: rest → decode w = .error e →
    ∃ t, step s = .next t ∧ State.FaultEntered .illcmd { s with script := rest } t

/-- R241 (the model's reading, log entry 4): with no host operation left a step changes nothing. -/
def Obligations.IdleStepChangesNothing : Prop :=
  ∀ s : State, s.script = [] → step s = .next s

/-- R34, R66: a step is refused exactly for the host operations that the spec gives no meaning, and no
step ends in a fault of the machine (R216). -/
def Obligations.StepRefusesExactlyMeaninglessOps : Prop :=
  ∀ s : State,
    ((∃ r, step s = .refused r) ↔
      ∃ op rest, s.script = op :: rest ∧ op.meaningless s.memSize = true) ∧
    (∀ r, step s ≠ .fault r)

/-- R216 (every command is performed): every command completes from every state. -/
def Obligations.EveryCommandCompletes : Prop :=
  ∀ (i : Instr) (s : State), ∃ t, exec i s = .next t

/-- R33: register and offset name each other. -/
def Obligations.RegisterMapRoundTrip : Prop :=
  (∀ r : Reg, accessedReg 32 (BitVec.ofNat 8 r.offset) = .ok r) ∧
  (∀ (off : BitVec 8) (r : Reg), accessedReg 32 off = .ok r → off.toNat = r.offset)

/-! ## Arithmetic -/

/-- R121: doubling is `(b << 1)` reduced by 0x11B on the 9-bit value, then truncated. -/
def Obligations.DoublingReducesByElevenB : Prop :=
  ∀ b : Byte, (xtime b).toNat =
    if 128 ≤ b.toNat then (2 * b.toNat) ^^^ 0x11B else 2 * b.toNat

/-- R122: multiplication is a commutative, associative product that distributes over `^`, with identity
0x01, and every non-zero byte has exactly one inverse. -/
def Obligations.GmulFieldLaws : Prop :=
  (∀ a b : Byte, gmul a b = gmul b a) ∧
  (∀ a b c : Byte, gmul (gmul a b) c = gmul a (gmul b c)) ∧
  (∀ a b c : Byte, gmul a (b ^^^ c) = gmul a b ^^^ gmul a c) ∧
  (∀ a : Byte, gmul a 1#8 = a ∧ gmul a 0#8 = 0#8) ∧
  (∀ a : Byte, a ≠ 0#8 → ∃ b, gmul a b = 1#8 ∧ ∀ c, gmul a c = 1#8 → c = b)

/-- R122, R123: the multipliers the commands use, in terms of doubling. -/
def Obligations.ConstantMultipliers : Prop :=
  ∀ a : Byte,
    gmul a 1#8 = a ∧ gmul a 2#8 = xtime a ∧ gmul a 3#8 = xtime a ^^^ a ∧
    gmul a 9#8 = xtime (xtime (xtime a)) ^^^ a ∧
    gmul a 11#8 = xtime (xtime (xtime a)) ^^^ xtime a ^^^ a ∧
    gmul a 13#8 = xtime (xtime (xtime a)) ^^^ xtime (xtime a) ^^^ a ∧
    gmul a 14#8 = xtime (xtime (xtime a)) ^^^ xtime (xtime a) ^^^ xtime a

/-- R124, R125 and spec/90_conflicts.md C1: the ten round constants, and round r uses `rc(r - 1)`. -/
def Obligations.RoundConstants : Prop :=
  [rc 0, rc 1, rc 2, rc 3, rc 4, rc 5, rc 6, rc 7, rc 8, rc 9] =
    [0x01#8, 0x02#8, 0x04#8, 0x08#8, 0x10#8, 0x20#8, 0x40#8, 0x80#8, 0x1B#8, 0x36#8] ∧
  (∀ n, rc (n + 1) = xtime (rc n)) ∧
  (∀ r, 1 ≤ r → r ≤ 10 → (rconW r).toNat = (rc (r - 1)).toNat * 2 ^ 24)

/-- R126, R127: the two tables are inverse to each other; S has no fixed and no opposite fixed point. -/
def Obligations.SBoxTablesAreInverse : Prop :=
  ∀ x : Byte, IS (S x) = x ∧ S (IS x) = x ∧ S x ≠ x ∧ S x ≠ x ^^^ 0xFF#8

/-- R128: the S-box table is the affine image of the multiplicative inverse `v` of `x`, 0 for x = 0. -/
def Obligations.SBoxIsAffineOfInverse : Prop :=
  ∀ x : Byte, ∃ v : Byte, (x = 0#8 → v = 0#8) ∧ (x ≠ 0#8 → gmul x v = 1#8) ∧
    S x = v ^^^ v.rotateLeft 1 ^^^ v.rotateLeft 2 ^^^ v.rotateLeft 3 ^^^ v.rotateLeft 4 ^^^ 0x63#8

/-- R129, R130: RotWord and SubWord on the bytes of a word. -/
def Obligations.WordFunctionsOnBytes : Prop :=
  ∀ a0 a1 a2 a3 : Byte,
    rotWord (a0 ++ a1 ++ a2 ++ a3 : BitVec 32) = (a1 ++ a2 ++ a3 ++ a0 : BitVec 32) ∧
    subWord (a0 ++ a1 ++ a2 ++ a3 : BitVec 32) = (S a0 ++ S a1 ++ S a2 ++ S a3 : BitVec 32)

/-! ## Commands -/

/-- R150, R151, R153: KEXP, word 0x00000001, stores the 44 words of the key's schedule, sets KVALID and
changes nothing else. -/
def Obligations.KexpStoresTheSchedule : Prop :=
  decode 0x00000001#32 = .ok .kexp ∧ ∀ s : State, ∃ t K, exec .kexp s = .next t ∧ t.rk = some K ∧ t.kvalid = true ∧
    (∀ i : Fin 4, K.W i.val = s.key.word i) ∧
    (∀ i, 4 ≤ i → i < 44 →
      K.W i = if i % 4 = 0
        then K.W (i - 4) ^^^ subWord (rotWord (K.W (i - 1))) ^^^
          ((rc (i / 4 - 1)).zeroExtend 32 <<< 24)
        else K.W (i - 4) ^^^ K.W (i - 1)) ∧
    State.UnchangedExcept [.rk] s t

/-- R152, R154: after KEXP round key 0 is KEY, RKW0 to RKW3 read back KEY0 to KEY3, and a second KEXP
leaves the state as it was. -/
def Obligations.KexpReadsBackItsKey : Prop :=
  ∀ s t : State, exec .kexp s = .next t →
    (∃ K, t.rk = some K ∧ K.get 0 = t.key) ∧
    (∀ i : Fin 4, t.readReg (.rkw (Fin.ofNat 44 i.val)) = t.readReg (.key i)) ∧
    exec .kexp t = .next t

/-- R161, R162: ARK r with a schedule adds round key r to BLK byte by byte and changes nothing else. -/
def Obligations.ArkAddsTheRoundKey : Prop :=
  ∀ (s : State) (K : Schedule) (r : BitVec 4), s.rk = some K → r.toNat ≤ 10 →
    ∃ t, exec (.ark r) s = .next t ∧
      (∀ j : Fin 16, t.blk.byte j = s.blk.byte j ^^^ (K.get (Fin.ofNat 11 r.toNat)).byte j) ∧
      State.UnchangedExcept [.blk] s t

/-- R96, R202: ARK with an index 11 to 15 is the illegal command, whatever KVALID is. -/
def Obligations.ArkAboveTenIsIllegal : Prop :=
  ∀ (s : State) (r : BitVec 4), 10 < r.toNat →
    ∃ t, exec (.ark r) s = .next t ∧ State.FaultEntered .illcmd s t

/-- R163 to R165: SUBB and ISUBB replace each byte of BLK by its table entry, whatever KVALID is, and
change nothing else. -/
def Obligations.SubbAndIsubbSubstituteBytes : Prop :=
  ∀ s : State,
    (∃ t, exec .subb s = .next t ∧ (∀ j, t.blk.byte j = S (s.blk.byte j)) ∧
      State.UnchangedExcept [.blk] s t) ∧
    (∃ t, exec .isubb s = .next t ∧ (∀ j, t.blk.byte j = IS (s.blk.byte j)) ∧
      State.UnchangedExcept [.blk] s t)

/-- R166 to R169: SHROW and ISHROW move byte P[j], byte Q[j] of BLK to place j, and change nothing else. -/
def Obligations.ShrowAndIshrowPermuteBytes : Prop :=
  ∀ s : State,
    (∃ t, exec .shrow s = .next t ∧
      (∀ j, t.blk.byte j = s.blk.byte
        ([0, 5, 10, 15, 4, 9, 14, 3, 8, 13, 2, 7, 12, 1, 6, 11].getD j.val 0)) ∧
      (∀ r c : Fin 4, t.blk.byte (Fin.ofNat 16 (r.val + 4 * c.val)) =
        s.blk.byte (Fin.ofNat 16 (r.val + 4 * ((c.val + r.val) % 4)))) ∧
      State.UnchangedExcept [.blk] s t) ∧
    (∃ t, exec .ishrow s = .next t ∧
      (∀ j, t.blk.byte j = s.blk.byte
        ([0, 13, 10, 7, 4, 1, 14, 11, 8, 5, 2, 15, 12, 9, 6, 3].getD j.val 0)) ∧
      (∀ r c : Fin 4, t.blk.byte (Fin.ofNat 16 (r.val + 4 * c.val)) =
        s.blk.byte (Fin.ofNat 16 (r.val + 4 * ((c.val + 4 - r.val) % 4)))) ∧
      State.UnchangedExcept [.blk] s t)

/-- R170 to R173: MIXC and IMIXC multiply each column of BLK by their matrix over GF(2^8), and change
nothing else. -/
def Obligations.MixcAndImixcMultiplyColumns : Prop :=
  let entry (m : List (List Byte)) (r k : Fin 4) : Byte := (m.getD r.val []).getD k.val 0#8
  let product (m : List (List Byte)) (b : Block) (r c : Fin 4) : Byte :=
    gmul (b.byte (Fin.ofNat 16 (0 + 4 * c.val))) (entry m r 0) ^^^
    gmul (b.byte (Fin.ofNat 16 (1 + 4 * c.val))) (entry m r 1) ^^^
    gmul (b.byte (Fin.ofNat 16 (2 + 4 * c.val))) (entry m r 2) ^^^
    gmul (b.byte (Fin.ofNat 16 (3 + 4 * c.val))) (entry m r 3)
  ∀ s : State,
    (∃ t, exec .mixc s = .next t ∧
      (∀ r c : Fin 4, t.blk.byte (Fin.ofNat 16 (r.val + 4 * c.val)) =
        product [[2, 3, 1, 1], [1, 2, 3, 1], [1, 1, 2, 3], [3, 1, 1, 2]] s.blk r c) ∧
      State.UnchangedExcept [.blk] s t) ∧
    (∃ t, exec .imixc s = .next t ∧
      (∀ r c : Fin 4, t.blk.byte (Fin.ofNat 16 (r.val + 4 * c.val)) =
        product [[14, 11, 13, 9], [9, 14, 11, 13], [13, 9, 14, 11], [11, 13, 9, 14]] s.blk r c) ∧
      State.UnchangedExcept [.blk] s t)

/-- R174: inverse pairs, commuting pairs and linearity of the transforms; SubBytes is not linear. -/
def Obligations.TransformLaws : Prop :=
  (∀ s k, addRoundKey (addRoundKey s k) k = s) ∧
  (∀ s, invSubBytes (subBytes s) = s ∧ subBytes (invSubBytes s) = s) ∧
  (∀ s, invShiftRows (shiftRows s) = s ∧ shiftRows (invShiftRows s) = s) ∧
  (∀ s, invMixColumns (mixColumns s) = s ∧ mixColumns (invMixColumns s) = s) ∧
  (∀ s, subBytes (shiftRows s) = shiftRows (subBytes s) ∧
    invSubBytes (invShiftRows s) = invShiftRows (invSubBytes s)) ∧
  (∀ s t, mixColumns (s.xor t) = (mixColumns s).xor (mixColumns t) ∧
    invMixColumns (s.xor t) = (invMixColumns s).xor (invMixColumns t) ∧
    shiftRows (s.xor t) = (shiftRows s).xor (shiftRows t) ∧
    invShiftRows (s.xor t) = (invShiftRows s).xor (invShiftRows t)) ∧
  ¬ (∀ s t, subBytes (s.xor t) = (subBytes s).xor (subBytes t))

/-- R167, R169, R171, R172: four SHROW and four MIXC restore the state; three SHROW are ISHROW and three
MIXC are IMIXC. -/
def Obligations.OrdersOfShrowAndMixc : Prop :=
  ∀ s : State,
    execAll [.shrow, .shrow, .shrow, .shrow] s = .next s ∧
    execAll [.mixc, .mixc, .mixc, .mixc] s = .next s ∧
    execAll [.shrow, .shrow, .shrow] s = exec .ishrow s ∧
    execAll [.mixc, .mixc, .mixc] s = exec .imixc s

/-- R180, R181, R185: with a schedule, ENCB completes, does what the 40 commands of ENCB.SEQ do to the
whole state, and changes nothing but BLK. -/
def Obligations.EncbEqualsItsSequence : Prop :=
  ∀ (s : State) (K : Schedule), s.rk = some K →
    ∃ t, exec .encb s = .next t ∧
      execAll ([.ark 0,
        .subb, .shrow, .mixc, .ark 1, .subb, .shrow, .mixc, .ark 2, .subb, .shrow, .mixc, .ark 3,
        .subb, .shrow, .mixc, .ark 4, .subb, .shrow, .mixc, .ark 5, .subb, .shrow, .mixc, .ark 6,
        .subb, .shrow, .mixc, .ark 7, .subb, .shrow, .mixc, .ark 8, .subb, .shrow, .mixc, .ark 9,
        .subb, .shrow, .ark 10]) s = .next t ∧
      State.UnchangedExcept [.blk] s t

/-- R182, R183, R185: with a schedule, DECB completes, does what the 40 commands of DECB.SEQ do to the
whole state, and changes nothing but BLK. -/
def Obligations.DecbEqualsItsSequence : Prop :=
  ∀ (s : State) (K : Schedule), s.rk = some K →
    ∃ t, exec .decb s = .next t ∧
      execAll ([.ark 10,
        .ishrow, .isubb, .ark 9, .imixc, .ishrow, .isubb, .ark 8, .imixc,
        .ishrow, .isubb, .ark 7, .imixc, .ishrow, .isubb, .ark 6, .imixc,
        .ishrow, .isubb, .ark 5, .imixc, .ishrow, .isubb, .ark 4, .imixc,
        .ishrow, .isubb, .ark 3, .imixc, .ishrow, .isubb, .ark 2, .imixc,
        .ishrow, .isubb, .ark 1, .imixc, .ishrow, .isubb, .ark 0]) s = .next t ∧
      State.UnchangedExcept [.blk] s t

/-- R185: without a schedule the sequence and the single command differ: ENCB.SEQ records NOKEY and still
performs its 29 keyless commands on BLK, ENCB records NOKEY and leaves BLK; DECB.SEQ and DECB likewise. -/
def Obligations.EncbSequenceWithoutKey : Prop :=
  let keylessRound (b : Block) : Block := mixColumns (shiftRows (subBytes b))
  let keylessInverse (b : Block) : Block := invMixColumns (invSubBytes (invShiftRows b))
  ∀ s : State, s.rk = none →
    (∃ t, execAll encbSeqCommands s = .next t ∧
      t.blk = shiftRows (subBytes (keylessRound^[9] s.blk)) ∧
      t.err = true ∧ t.cause = (if s.err then s.cause else .nokey) ∧
      State.UnchangedExcept [.blk, .err, .cause] s t) ∧
    (∃ t, exec .encb s = .next t ∧ State.FaultEntered .nokey s t) ∧
    (∃ t, execAll decbSeqCommands s = .next t ∧
      t.blk = invSubBytes (invShiftRows (keylessInverse^[9] s.blk)) ∧
      t.err = true ∧ t.cause = (if s.err then s.cause else .nokey) ∧
      State.UnchangedExcept [.blk, .err, .cause] s t) ∧
    (∃ t, exec .decb s = .next t ∧ State.FaultEntered .nokey s t)

/-- R184: for every block and every schedule decryption undoes encryption and encryption decryption, so
encryption is a bijection on blocks; with KVALID = 1 each pair of commands leaves the state as it was. -/
def Obligations.EncryptDecryptRoundTrip : Prop :=
  (∀ (b : Block) (K : Schedule), decrypt (encrypt b K) K = b ∧ encrypt (decrypt b K) K = b) ∧
  (∀ K : Schedule, Function.Bijective fun b => encrypt b K) ∧
  (∀ (s : State) (K : Schedule), s.rk = some K →
    execAll [.encb, .decb] s = .next s ∧ execAll [.decb, .encb] s = .next s)

/-- R190, R192: an ECBD whose checks pass completes: the destination holds EcbDecrypt of the source, the
source and every byte outside the destination are unchanged, BLK is the last plaintext block (unchanged
when LEN = 0), and nothing else changes. -/
def Obligations.EcbdDecryptsTheRange : Prop :=
  ∀ (s : State) (K : Schedule),
    let n := s.len.toNat
    let src := s.src.toNat
    let dst := s.dst.toNat
    s.rk = some K → n % 16 = 0 →
    (0 < n → src + n ≤ s.memSize ∧ dst + n ≤ s.memSize ∧ (src + n ≤ dst ∨ dst + n ≤ src)) →
    ∃ t, exec .ecbd s = .next t ∧
      ecbDecrypt (s.mem.readBytes src n) K = some (t.mem.readBytes dst n) ∧
      t.mem.readBytes src n = s.mem.readBytes src n ∧
      (∀ a, ¬ (dst ≤ a ∧ a < dst + n) → t.mem.readByte a = s.mem.readByte a) ∧
      t.blk = (if n = 0 then s.blk else decrypt (s.mem.readBlock (src + (n - 16))) K) ∧
      State.UnchangedExcept [.blk, .mem] s t

/-- R190: each plaintext block depends on the ciphertext block at its position and on the schedule only:
byte 16i + j of the result is byte j of the decryption of block i. -/
def Obligations.EcbDecryptIsBlockwise : Prop :=
  ∀ (ct : List Byte) (K : Schedule),
    (ct.length % 16 ≠ 0 → ecbDecrypt ct K = none) ∧
    (ct.length % 16 = 0 → ∃ pt, ecbDecrypt ct K = some pt ∧ pt.length = ct.length ∧
      ∀ (i : Nat) (j : Fin 16), i < ct.length / 16 →
        pt.getD (16 * i + j.val) 0#8 =
          (decrypt (Block.ofFn fun k => ct.getD (16 * i + k.val) 0#8) K).byte j)

/-- R193: with LEN = 0 and KVALID = 1 ECBD completes and nothing changes, for any SRC and DST. -/
def Obligations.EcbdOfNothingChangesNothing : Prop :=
  ∀ (s : State) (K : Schedule), s.rk = some K → s.len = 0#32 → exec .ecbd s = .next s

/-- R191, R213: the checks of ECBD in their order; the first that fails raises its fault and nothing else
happens; where none fails, with LEN = 0 whatever SRC and DST hold, no fault is raised. -/
def Obligations.EcbdFaultsInOrder : Prop :=
  ∀ s : State,
    let n := s.len.toNat
    let src := s.src.toNat
    let dst := s.dst.toNat
    let passes := s.memSize < src + n ∨ s.memSize < dst + n
    let overlap := src < dst + n ∧ dst < src + n
    (s.rk = none → ∃ t, exec .ecbd s = .next t ∧ State.FaultEntered .nokey s t) ∧
    (s.rk ≠ none → n % 16 ≠ 0 → ∃ t, exec .ecbd s = .next t ∧ State.FaultEntered .length s t) ∧
    (s.rk ≠ none → n % 16 = 0 → 0 < n → passes →
      ∃ t, exec .ecbd s = .next t ∧ State.FaultEntered .bounds s t) ∧
    (s.rk ≠ none → n % 16 = 0 → 0 < n → ¬ passes → overlap →
      ∃ t, exec .ecbd s = .next t ∧ State.FaultEntered .overlap s t) ∧
    (s.rk ≠ none → n % 16 = 0 → (n = 0 ∨ (¬ passes ∧ ¬ overlap)) →
      ∃ t, exec .ecbd s = .next t ∧ t.err = s.err ∧ t.cause = s.cause)

/-- R162, R181, R183, R191: without a schedule ARK, ENCB, DECB and ECBD record NOKEY and change nothing
else. -/
def Obligations.NoScheduleRaisesNokey : Prop :=
  ∀ (s : State) (i : Instr), s.rk = none →
    (i = .encb ∨ i = .decb ∨ i = .ecbd ∨ ∃ r : BitVec 4, r.toNat ≤ 10 ∧ i = .ark r) →
    ∃ t, exec i s = .next t ∧ State.FaultEntered .nokey s t

/-- R200: after ZEROIZE, word 0x0000000E, every element but M is as after reset; M is untouched. -/
def Obligations.ZeroizeLeavesTheResetRegisters : Prop :=
  decode 0x0000000E#32 = .ok .zeroize ∧ ∀ s : State, ∃ t, exec .zeroize s = .next t ∧
    (∀ j, t.key.byte j = 0#8) ∧ (∀ j, t.blk.byte j = 0#8) ∧ t.rk = none ∧ t.kvalid = false ∧
    t.err = false ∧ t.cause = .none ∧ t.src = 0#32 ∧ t.dst = 0#32 ∧ t.len = 0#32 ∧
    State.UnchangedExcept [.key, .blk, .rk, .err, .cause, .src, .dst, .len] s t

/-- R201: CLRERR, word 0x0000000F, clears ERR and CAUSE and changes nothing else. -/
def Obligations.ClrerrClearsTheFault : Prop :=
  decode 0x0000000F#32 = .ok .clrerr ∧ ∀ s : State, ∃ t, exec .clrerr s = .next t ∧ t.err = false ∧ t.cause = .none ∧
    State.UnchangedExcept [.err, .cause] s t

/-! ## Whole-machine rules -/

/-- R212, R214, R215: a command that records a fault changed nothing but ERR and CAUSE, and the cause is
one that the table gives the command. -/
def Obligations.FaultsArePreciseAndTabulated : Prop :=
  ∀ (i : Instr) (s t : State), i.wellFormed = true → s.err = false → exec i s = .next t →
    t.err = true → State.FaultEntered t.cause s t ∧ mayRaise i t.cause = true

/-- R29: no command's result depends on ERR or CAUSE: from states that differ only in these two, it leaves
states that differ at most in these two. -/
def Obligations.ErrAndCauseInfluenceNothing : Prop :=
  ∀ (i : Instr) (s : State) (e : Bool) (c : Cause), ∃ t t',
    exec i s = .next t ∧ exec i { s with err := e, cause := c } = .next t' ∧
    t' = { t with err := t'.err, cause := t'.cause }

/-- R29, R217: while ERR = 1 every command but CLRERR and ZEROIZE leaves ERR and the first cause. -/
def Obligations.FirstCauseIsKept : Prop :=
  ∀ (i : Instr) (s t : State), s.err = true → i ≠ .clrerr → i ≠ .zeroize → exec i s = .next t →
    t.err = true ∧ t.cause = s.cause

/-- R21, R24, R26, R38: no command but ZEROIZE writes KEY, SRC, DST or LEN; none but KEXP and ZEROIZE
writes RK; none but ECBD writes M. -/
def Obligations.CommandsWriteOnlyTheirOwn : Prop :=
  ∀ (i : Instr) (s t : State), exec i s = .next t →
    (i ≠ .zeroize → t.key = s.key ∧ t.src = s.src ∧ t.dst = s.dst ∧ t.len = s.len) ∧
    (i ≠ .zeroize → i ≠ .kexp → t.rk = s.rk) ∧
    (i ≠ .ecbd → ∀ a, t.mem.readByte a = s.mem.readByte a) ∧
    t.memSize = s.memSize ∧ t.script = s.script ∧ t.returned = s.returned

/-- R21, R24, R28: only KEXP reads KEY; only ARK, ENCB, DECB and ECBD read RK and KVALID; only ECBD reads
SRC, DST, LEN and M: from states that differ only there, every other command leaves states that differ at
most there. -/
def Obligations.CommandsReadOnlyTheirOwn : Prop :=
  ∀ (i : Instr) (s : State),
    (i ≠ .kexp → ∀ k : Block, ∃ t t', exec i s = .next t ∧ exec i { s with key := k } = .next t' ∧
      t' = { t with key := t'.key }) ∧
    ((∀ r, i ≠ .ark r) → i ≠ .encb → i ≠ .decb → i ≠ .ecbd → ∀ K : Option Schedule,
      ∃ t t', exec i s = .next t ∧ exec i { s with rk := K } = .next t' ∧
        t' = { t with rk := t'.rk }) ∧
    (i ≠ .ecbd → ∀ (a b c : Word) (m : Memory), ∃ t t', exec i s = .next t ∧
      exec i { s with src := a, dst := b, len := c, mem := m } = .next t' ∧
      t' = { t with src := t'.src, dst := t'.dst, len := t'.len, mem := t'.mem })

/-- R247 (the script in the state is the model's own, log entry 3): a run of host operations that all have
a meaning ends, its script performed and MEMSIZE as it was. -/
def Obligations.EveryRunEnds : Prop :=
  ∀ s : State, (∀ op ∈ s.script, op.meaningless s.memSize = false) →
    ∃ t, s.run = .next t ∧ t.finished = true ∧ t.memSize = s.memSize

/-- R247 (the script in the state and the list of expected points are the model's own, log entries 3 and 20):
a run has gone wrong exactly when its script contains an operation that a model refuses, or ERR = 1 at a point
that it reaches and where the script does not expect it. -/
def Obligations.RunGoesWrongExactly : Prop :=
  ∀ (s : State) (expected : List Bool), s.goneWrong expected = true ↔
    (∃ op ∈ s.script, op.meaningless s.memSize = true) ∨
    (∃ k t, k ≤ s.script.length ∧ stepTimes k s = .next t ∧ t.err = true ∧
      expected.getD k false = false)

/-- R247 (the script in the state is the model's own, log entry 3): no later statement hides what went wrong.
A refused operation ends the run refused; a fault recorded at a point of the run still shows at its end, with
the cause it had, unless CLRERR, ZEROIZE or RESET comes after that point. -/
def Obligations.RunHidesNothing : Prop :=
  (∀ s : State, (∃ op ∈ s.script, op.meaningless s.memSize = true) → ∃ r, s.run = .refused r) ∧
  (∀ (s u t : State) (k : Nat), stepTimes k s = .next u → u.err = true →
    (∀ op ∈ s.script.drop k, op ≠ .reset ∧ op ≠ .writeReg 32 0x00#8 0x0000000E#32 ∧
      op ≠ .writeReg 32 0x00#8 0x0000000F#32) →
    s.run = .next t → k ≤ s.script.length → t.err = true ∧ t.cause = u.cause)

/-- R6, R8: MEMSIZE is configuration: no step changes it. -/
def Obligations.MemSizeNeverChanges : Prop :=
  ∀ s t : State, step s = .next t → t.memSize = s.memSize

/-- R28, R154, R60, R20: every step keeps the invariant: M in canonical form and inside MEMSIZE, a stored
schedule is the expansion of KEY, CAUSE is 0 exactly when ERR = 0. -/
def Obligations.StepKeepsTheInvariant : Prop :=
  ∀ s t : State, s.Inv → step s = .next t → t.Inv

/-- R39: the invariant holds at reset. -/
def Obligations.ResetMeetsTheInvariant : Prop := State.reset.Inv

/-- R39: the reset values that the spec gives. -/
def Obligations.ResetValues : Prop :=
  (∀ j, State.reset.key.byte j = 0#8) ∧ (∀ j, State.reset.blk.byte j = 0#8) ∧
  State.reset.rk = none ∧ State.reset.kvalid = false ∧ State.reset.err = false ∧
  State.reset.cause = .none ∧ State.reset.src = 0#32 ∧ State.reset.dst = 0#32 ∧
  State.reset.len = 0#32 ∧ State.reset.statusWord = 0#32 ∧
  (∀ i, State.reset.readReg (.rkw i) = 0#32)

/-! ## Host operations -/

/-- R22: a host write to KEYi writes the four bytes of word i of KEY and clears KVALID; nothing else
changes. -/
def Obligations.KeyWriteClearsKvalid : Prop :=
  ∀ (s : State) (i : Fin 4) (v : Word) (rest : List HostOp),
    s.script = .writeReg 32 (BitVec.ofNat 8 (0x20 + 4 * i.val)) v :: rest →
    ∃ t, step s = .next t ∧ t.kvalid = false ∧ t.rk = none ∧
      (∀ j : Fin 16, t.key.byte j =
        if j.val / 4 = i.val then v.extractLsb' (24 - 8 * (j.val % 4)) 8 else s.key.byte j) ∧
      State.UnchangedExcept [.key, .rk] { s with script := rest } t

/-- R23: a host write to BLKi writes the four bytes of word i of BLK and nothing else. -/
def Obligations.BlkWriteStoresOneColumn : Prop :=
  ∀ (s : State) (i : Fin 4) (v : Word) (rest : List HostOp),
    s.script = .writeReg 32 (BitVec.ofNat 8 (0x30 + 4 * i.val)) v :: rest →
    ∃ t, step s = .next t ∧
      (∀ j : Fin 16, t.blk.byte j =
        if j.val / 4 = i.val then v.extractLsb' (24 - 8 * (j.val % 4)) 8 else s.blk.byte j) ∧
      State.UnchangedExcept [.blk] { s with script := rest } t

/-- R24: a host write to SRC, DST or LEN stores all 32 bits and changes nothing else. -/
def Obligations.BufferRegisterWrites : Prop :=
  ∀ (s : State) (v : Word) (rest : List HostOp),
    (s.script = .writeReg 32 0x08#8 v :: rest →
      ∃ t, step s = .next t ∧ t.src = v ∧ State.UnchangedExcept [.src] { s with script := rest } t) ∧
    (s.script = .writeReg 32 0x0C#8 v :: rest →
      ∃ t, step s = .next t ∧ t.dst = v ∧ State.UnchangedExcept [.dst] { s with script := rest } t) ∧
    (s.script = .writeReg 32 0x10#8 v :: rest →
      ∃ t, step s = .next t ∧ t.len = v ∧ State.UnchangedExcept [.len] { s with script := rest } t)

/-- R32: a host read of STATUS returns `(CAUSE << 4) | (ERR << 1) | KVALID`, with zero in every other bit,
and changes nothing; the codes of CAUSE are the numbers of R32 and R211; a host write to STATUS is ignored. -/
def Obligations.StatusRegister : Prop :=
  (Cause.none.code.toNat = 0 ∧ Cause.illcmd.code.toNat = 1 ∧ Cause.nokey.code.toNat = 2 ∧
    Cause.length.code.toNat = 3 ∧ Cause.bounds.code.toNat = 4 ∧ Cause.overlap.code.toNat = 5) ∧
  ∀ (s : State) (v : Word) (rest : List HostOp),
    (s.script = .readReg 32 0x04#8 :: rest →
      ∃ w : Word, step s = .next { s with script := rest, returned := s.returned ++ [.word w] } ∧
        w.toNat = 16 * s.cause.code.toNat + 2 * s.err.toNat + s.kvalid.toNat) ∧
    (s.script = .writeReg 32 0x04#8 v :: rest → step s = .next { s with script := rest })

/-- R27: a host read of RKWi returns W[i] when KVALID = 1 and 0 when KVALID = 0, and changes nothing; a host
write to RKWi is ignored. -/
def Obligations.ScheduleWindow : Prop :=
  ∀ (s : State) (i : Fin 44) (v : Word) (rest : List HostOp),
    (s.script = .readReg 32 (BitVec.ofNat 8 (0x40 + 4 * i.val)) :: rest →
      ∃ w : Word, step s = .next { s with script := rest, returned := s.returned ++ [.word w] } ∧
        (s.kvalid = false → w = 0#32) ∧
        (∀ K, s.rk = some K →
          w = (K.get (Fin.ofNat 11 (i.val / 4))).word (Fin.ofNat 4 (i.val % 4)))) ∧
    (s.script = .writeReg 32 (BitVec.ofNat 8 (0x40 + 4 * i.val)) v :: rest →
      step s = .next { s with script := rest })

/-- R21, R23, R24, R31: what reads of KEYi, BLKi, SRC, DST, LEN and CMD return; they change nothing. -/
def Obligations.DataRegisterReads : Prop :=
  ∀ (s : State) (rest : List HostOp),
    let reads (off : Nat) (w : Word) : Prop :=
      s.script = .readReg 32 (BitVec.ofNat 8 off) :: rest →
      step s = .next { s with script := rest, returned := s.returned ++ [.word w] }
    (∀ i : Fin 4, reads (0x20 + 4 * i.val)
      (s.key.byte (Fin.ofNat 16 (4 * i.val)) ++ s.key.byte (Fin.ofNat 16 (4 * i.val + 1)) ++
        s.key.byte (Fin.ofNat 16 (4 * i.val + 2)) ++ s.key.byte (Fin.ofNat 16 (4 * i.val + 3)))) ∧
    (∀ i : Fin 4, reads (0x30 + 4 * i.val)
      (s.blk.byte (Fin.ofNat 16 (4 * i.val)) ++ s.blk.byte (Fin.ofNat 16 (4 * i.val + 1)) ++
        s.blk.byte (Fin.ofNat 16 (4 * i.val + 2)) ++ s.blk.byte (Fin.ofNat 16 (4 * i.val + 3)))) ∧
    reads 0x08 s.src ∧ reads 0x0C s.dst ∧ reads 0x10 s.len ∧ reads 0x00 0#32

/-- R63, R66: a host write to M inside MEMSIZE stores exactly its bytes and changes nothing else. -/
def Obligations.HostWriteStoresItsBytes : Prop :=
  ∀ (s : State) (a : Nat) (bs : List Byte) (rest : List HostOp),
    s.script = .writeMem a bs :: rest → a + bs.length ≤ s.memSize →
    ∃ t, step s = .next t ∧ t.mem.readBytes a bs.length = bs ∧
      (∀ b, ¬ (a ≤ b ∧ b < a + bs.length) → t.mem.readByte b = s.mem.readByte b) ∧
      State.UnchangedExcept [.mem] { s with script := rest } t

/-- R62, R66: a host read of M inside MEMSIZE returns the bytes at its addresses, lowest first, and
changes nothing. -/
def Obligations.HostReadReturnsTheBytes : Prop :=
  ∀ (s : State) (a n : Nat) (rest : List HostOp),
    s.script = .readMem a n :: rest → a + n ≤ s.memSize →
    ∃ bs : List Byte,
      step s = .next { s with script := rest, returned := s.returned ++ [.bytes bs] } ∧
      bs.length = n ∧ ∀ j, j < n → bs.getD j 0#8 = s.mem.readByte (a + j)

/-- R240: RESET sets every register to its reset value and leaves M. -/
def Obligations.ResetKeepsMemory : Prop :=
  ∀ (s : State) (rest : List HostOp), s.script = .reset :: rest →
    ∃ t, step s = .next t ∧
      (∀ j, t.key.byte j = 0#8) ∧ (∀ j, t.blk.byte j = 0#8) ∧ t.rk = none ∧ t.kvalid = false ∧
      t.err = false ∧ t.cause = .none ∧ t.src = 0#32 ∧ t.dst = 0#32 ∧ t.len = 0#32 ∧
      State.UnchangedExcept [.key, .blk, .rk, .err, .cause, .src, .dst, .len]
        { s with script := rest } t
end

