-- ==== Sys2Proof/Laws/Arith.lean ====
section
/-! SUPPORT. Doubling and multiplication in GF(2^8) are linear over exclusive-or (what the laws of
MixColumns rest on). -/

namespace Sys2Proof

/-- The bits of a doubled byte: a shift, with 0x1B added when bit 7 was set (R121). -/
theorem getLsbD_xtime (b : Byte) (i : Nat) :
    (xtime b).getLsbD i =
      ((decide (i < 8) && !decide (i < 1) && b.getLsbD (i - 1)) ^^
        (b.getLsbD 7 && (0x1B#8).getLsbD i)) := by
  unfold xtime
  cases h : b.getLsbD 7 <;> simp [BitVec.getLsbD_shiftLeft, BitVec.getLsbD_xor]

theorem xtime_xor (a b : Byte) : xtime (a ^^^ b) = xtime a ^^^ xtime b := by
  apply BitVec.eq_of_getLsbD_eq
  intro i hi
  simp only [getLsbD_xtime, BitVec.getLsbD_xor]
  generalize a.getLsbD 7 = p, b.getLsbD 7 = q, a.getLsbD (i - 1) = u, b.getLsbD (i - 1) = v,
    (0x1B#8).getLsbD i = w, decide (i < 8) = m, decide (i < 1) = n
  revert p q u v w m n
  decide

/-- The loop of R122 splits over an exclusive-or of its doubled operands. -/
theorem gmulStep_xor (b p q t u : Byte) (i : Nat) :
    gmulStep b (p ^^^ q, t ^^^ u) i =
      ((gmulStep b (p, t) i).1 ^^^ (gmulStep b (q, u) i).1,
       (gmulStep b (p, t) i).2 ^^^ (gmulStep b (q, u) i).2) := by
  unfold gmulStep
  simp only [xtime_xor, Prod.mk.injEq, and_true]
  split
  · simp only [BitVec.xor_assoc]; congr 1; rw [← BitVec.xor_assoc, ← BitVec.xor_assoc, BitVec.xor_comm q t]
  · rfl

theorem foldl_gmulStep_xor (b : Byte) (is : List Nat) (p q t u : Byte) :
    is.foldl (gmulStep b) (p ^^^ q, t ^^^ u) =
      ((is.foldl (gmulStep b) (p, t)).1 ^^^ (is.foldl (gmulStep b) (q, u)).1,
       (is.foldl (gmulStep b) (p, t)).2 ^^^ (is.foldl (gmulStep b) (q, u)).2) := by
  induction is generalizing p q t u with
  | nil => rfl
  | cons i is ih => simp only [List.foldl_cons, gmulStep_xor, ih]

/-- Multiplication by a fixed byte is linear over exclusive-or. -/
theorem gmul_xor_left (a b c : Byte) : gmul (a ^^^ b) c = gmul a c ^^^ gmul b c := by
  have h := foldl_gmulStep_xor c [0, 1, 2, 3, 4, 5, 6, 7] 0#8 0#8 a b
  simp only [BitVec.xor_self] at h
  unfold gmul
  rw [h]

@[simp] theorem gmul_zero_left (c : Byte) : gmul 0#8 c = 0#8 := by
  have h := gmul_xor_left 0#8 0#8 c
  simpa using h

end Sys2Proof
end

