-- ==== Sys2Proof/Laws/Block.lean ====
section
/-! SUPPORT. The small lemmas of columns, blocks and schedules: each view of what each builder builds, and
that a block is its bytes. -/

namespace Sys2Proof

@[simp] theorem Column.row_ofFn (f : Fin 4 → Byte) (r : Fin 4) : (Column.ofFn f).row r = f r := by
  fin_cases r <;> rfl

@[simp] theorem Column.row_map (f : Byte → Byte) (c : Column) (r : Fin 4) :
    (c.map f).row r = f (c.row r) := by
  fin_cases r <;> rfl

@[simp] theorem Column.row_xor (a b : Column) (r : Fin 4) :
    (a.xor b).row r = a.row r ^^^ b.row r := by
  fin_cases r <;> rfl

theorem Column.ext_row {a b : Column} (h : ∀ r, a.row r = b.row r) : a = b := by
  cases a; cases b
  simpa [Column.row] using And.intro (h 0) (And.intro (h 1) (And.intro (h 2) (h 3)))

/-- R12: the bits of a column's word, row 3 lowest. -/
theorem Column.getLsbD_toWord (c : Column) (i : Nat) : c.toWord.getLsbD i =
    if i < 8 then c.r3.getLsbD i
    else if i < 16 then c.r2.getLsbD (i - 8)
    else if i < 24 then c.r1.getLsbD (i - 16)
    else c.r0.getLsbD (i - 24) := by
  have h : (c.r0 ++ c.r1 ++ c.r2 ++ c.r3).getLsbD i =
      if i < 8 then c.r3.getLsbD i
      else if i < 16 then c.r2.getLsbD (i - 8)
      else if i < 24 then c.r1.getLsbD (i - 16)
      else c.r0.getLsbD (i - 24) := by
    simp only [BitVec.getLsbD_append]
    split
    · rfl
    · have h1 : i - 8 < 8 ↔ i < 16 := by omega
      have h2 : i - (8 + 8) < 8 ↔ i < 24 := by omega
      simp [Nat.sub_sub, h1, h2]
  exact h

@[simp] theorem Column.ofWord_toWord (c : Column) : Column.ofWord c.toWord = c := by
  cases c
  simp only [Column.ofWord, Column.mk.injEq]
  refine ⟨?_, ?_, ?_, ?_⟩ <;> apply BitVec.eq_of_getLsbD_eq <;> intro i hi <;>
    simp only [BitVec.getLsbD_extractLsb', Column.getLsbD_toWord] <;> simp [hi]
  all_goals repeat (split <;> try omega)
  all_goals congr 1

@[simp] theorem Column.toWord_ofWord (w : Word) : (Column.ofWord w).toWord = w := by
  apply BitVec.eq_of_getLsbD_eq
  intro i hi
  simp only [Column.getLsbD_toWord, Column.ofWord, BitVec.getLsbD_extractLsb']
  split
  · simp [*]
  split
  · rw [show 8 + (i - 8) = i by omega]; simp; omega
  split
  · rw [show 16 + (i - 16) = i by omega]; simp; omega
  · rw [show 24 + (i - 24) = i by omega]; simp; omega

@[simp] theorem Block.col_ofCols (f : Fin 4 → Column) (c : Fin 4) : (Block.ofCols f).col c = f c := by
  fin_cases c <;> rfl

theorem Block.ext_col {a b : Block} (h : ∀ c, a.col c = b.col c) : a = b := by
  cases a; cases b
  simpa [Block.col] using And.intro (h 0) (And.intro (h 1) (And.intro (h 2) (h 3)))

theorem Block.col_setCol (b : Block) (i c : Fin 4) (v : Column) :
    (b.setCol i v).col c = if c = i then v else b.col c := by
  fin_cases i <;> fin_cases c <;> rfl

@[simp] theorem Block.at_ofMatrix (f : Fin 4 → Fin 4 → Byte) (r c : Fin 4) :
    (Block.ofMatrix f).at r c = f r c := by
  simp [Block.ofMatrix, Block.at]

/-- A block is its 4 by 4 matrix of bytes. -/
theorem Block.ext_at {a b : Block} (h : ∀ r c, a.at r c = b.at r c) : a = b :=
  Block.ext_col fun c => Column.ext_row fun r => h r c

/-- R11: the byte at row `r`, column `c` is `b[r + 4*c]`. -/
theorem Block.byte_of_at (b : Block) (r c : Fin 4) :
    b.byte (Fin.ofNat 16 (r.val + 4 * c.val)) = b.at r c := by
  fin_cases r <;> fin_cases c <;> rfl

/-- A block is its sixteen bytes. -/
theorem Block.ext_byte {a b : Block} (h : ∀ j, a.byte j = b.byte j) : a = b :=
  Block.ext_at fun r c => by rw [← Block.byte_of_at, ← Block.byte_of_at, h]

@[simp] theorem Block.byte_ofFn (f : Fin 16 → Byte) (j : Fin 16) : (Block.ofFn f).byte j = f j := by
  fin_cases j <;> rfl

@[simp] theorem Block.byte_map (f : Byte → Byte) (b : Block) (j : Fin 16) :
    (b.map f).byte j = f (b.byte j) := by
  fin_cases j <;> rfl

@[simp] theorem Block.byte_xor (a b : Block) (j : Fin 16) :
    (a.xor b).byte j = a.byte j ^^^ b.byte j := by
  fin_cases j <;> rfl

@[simp] theorem Block.byte_zero (j : Fin 16) : Block.zero.byte j = 0#8 := by
  fin_cases j <;> rfl

@[simp] theorem Block.at_map (f : Byte → Byte) (b : Block) (r c : Fin 4) :
    (b.map f).at r c = f (b.at r c) := by
  fin_cases r <;> fin_cases c <;> rfl

@[simp] theorem Block.at_xor (a b : Block) (r c : Fin 4) :
    (a.xor b).at r c = a.at r c ^^^ b.at r c := by
  fin_cases r <;> fin_cases c <;> rfl

@[simp] theorem Block.col_mapCols (f : Column → Column) (b : Block) (c : Fin 4) :
    (b.mapCols f).col c = f (b.col c) := by
  fin_cases c <;> rfl

/-- R12: reading back the word that was written, and the other words are as before. -/
theorem Block.word_setWord (b : Block) (i k : Fin 4) (w : Word) :
    (b.setWord i w).word k = if k = i then w else b.word k := by
  unfold Block.word Block.setWord
  rw [Block.col_setCol]
  split <;> simp

/-- R22, R23: the bytes of a block after a write of its word `i`. -/
theorem Block.byte_setWord (b : Block) (i : Fin 4) (w : Word) (j : Fin 16) :
    (b.setWord i w).byte j =
      if j.val / 4 = i.val then w.extractLsb' (24 - 8 * (j.val % 4)) 8 else b.byte j := by
  fin_cases i <;> fin_cases j <;> rfl

@[simp] theorem Block.length_toBytes (b : Block) : b.toBytes.length = 16 := rfl

theorem Block.getD_toBytes (b : Block) (j : Fin 16) (d : Byte) :
    b.toBytes.getD j.val d = b.byte j := by
  fin_cases j <;> rfl

theorem Block.toBytes_eq_ofFn (b : Block) : b.toBytes = List.ofFn b.byte := by
  simp [List.ofFn_succ]; rfl

@[simp] theorem Block.ofBytes_toBytes_append (b : Block) (bs : List Byte) :
    Block.ofBytes (b.toBytes ++ bs) = b := rfl

@[simp] theorem Schedule.get_ofFn (f : Fin 11 → Block) (r : Fin 11) :
    (Schedule.ofFn f).get r = f r := by
  fin_cases r <;> rfl

/-- R13, R152: schedule word `4r + k` is word `k` of round key `r`. -/
theorem Schedule.W_eq_word (K : Schedule) (r : Fin 11) (k : Fin 4) :
    K.W (4 * r.val + k.val) = (K.get r).word k := by
  have hi : (Fin.ofNat 44 (4 * r.val + k.val)).val = 4 * r.val + k.val :=
    Nat.mod_eq_of_lt (by omega)
  have hr : (4 * r.val + k.val) / 4 = r.val := by omega
  have hk : (4 * r.val + k.val) % 4 = k.val := by omega
  simp only [Schedule.W, Schedule.word, hi, hr, hk]

end Sys2Proof
end

