-- ==== Sys2Proof/Laws/Decode.lean ====
section
/-! SUPPORT. The fields of a command word, and what the format-N table answers. -/

namespace Sys2Proof

/-- R90: a word is its three fields, `zero`, `rnd` and `op` from the top. -/
theorem fields_append (w : Word) : zeroField w ++ rndField w ++ opField w = w := by
  apply BitVec.eq_of_getLsbD_eq
  intro i hi
  simp only [zeroField, rndField, opField, BitVec.getLsbD_append, BitVec.getLsbD_extractLsb']
  split
  · simp [*]
  split
  · simp [*]
    rw [show 8 + (i - 8) = i by omega]
    exact BitVec.getLsbD_eq_getElem (by omega)
  · rw [show 12 + (i - 8 - 4) = i by omega]
    simp
    omega

/-- R94: what the format-N table names is a command of that opcode without an operand. -/
theorem formatN_some {op : BitVec 8} {i : Instr} (h : formatN op = some i) :
    i.wellFormed = true ∧ opcode i = op ∧ roundOperandField i = 0#4 := by
  have all : ∀ op : BitVec 8, (formatN op).all
      (fun i => i.wellFormed && opcode i == op && roundOperandField i == 0#4) = true := by
    decide +kernel
  have := all op
  simpa [h, and_assoc] using this

end Sys2Proof
end

