-- ==== Sys2Proof/Laws/Memory.lean ====
section
/-! SUPPORT. The laws of M: reading back, leaving the rest alone, canonical form and range kept. -/

namespace Sys2Proof.Machine

open Sys2Proof

open Memory

@[simp] theorem Memory.lookup_writeByte (m : Memory) (a x : Nat) (v : Byte) :
    (Memory.writeByte m a v).lookup x = if x = a then some v else Memory.lookup m x := by
  induction m with
  | nil => simp [writeByte, lookup, eq_comm]
  | cons c rest ih =>
    obtain ⟨b, u⟩ := c
    simp only [writeByte]
    split
    · by_cases h : x = a
      · simp [lookup, h]
      · simp [lookup, h, Ne.symm h]
    · split
      · subst_vars
        by_cases h : x = b
        · simp [lookup, h]
        · simp [lookup, h, Ne.symm h]
      · simp only [lookup, ih]
        split
        · rename_i h; subst h; simp; omega
        · rfl

/-- A read after a write to the same byte gives the value written; any other byte is left alone. -/
@[simp] theorem Memory.readByte_writeByte (m : Memory) (a x : Nat) (v : Byte) :
    (Memory.writeByte m a v).readByte x = if x = a then v else Memory.readByte m x := by
  simp only [readByte, lookup_writeByte]
  split <;> simp

@[simp] theorem Memory.length_readBytes (m : Memory) (a n : Nat) : (Memory.readBytes m a n).length = n := by
  induction n generalizing a with
  | zero => rfl
  | succ n ih => simp [readBytes, ih]

theorem Memory.getD_readBytes (m : Memory) (a n j : Nat) (d : Byte) :
    (Memory.readBytes m a n).getD j d = if j < n then Memory.readByte m (a + j) else d := by
  induction n generalizing a j with
  | zero => simp [readBytes]
  | succ n ih =>
    cases j with
    | zero => simp [readBytes]
    | succ j =>
      rw [readBytes, List.getD_cons_succ, ih, show a + 1 + j = a + (j + 1) by omega]
      simp

/-- Two reads agree when the memories agree on the bytes read. -/
theorem Memory.readBytes_congr {m m' : Memory} {a n : Nat}
    (h : ∀ j, j < n → Memory.readByte m (a + j) = Memory.readByte m' (a + j)) :
    Memory.readBytes m a n = Memory.readBytes m' a n := by
  induction n generalizing a with
  | zero => rfl
  | succ n ih =>
    simp only [readBytes]
    rw [show Memory.readByte m a = Memory.readByte m' a from h 0 (by omega)]
    rw [ih fun j hj => by rw [Nat.add_assoc, Nat.add_comm 1]; exact h (j + 1) (by omega)]

theorem Memory.readBytes_add (m : Memory) (a n k : Nat) :
    Memory.readBytes m a (n + k) = Memory.readBytes m a n ++ Memory.readBytes m (a + n) k := by
  induction n generalizing a with
  | zero => simp [readBytes]
  | succ n ih =>
    rw [show n + 1 + k = (n + k) + 1 by omega]
    simp only [readBytes, ih, List.cons_append]
    rw [show a + 1 + n = a + (n + 1) by omega]

/-- R63: after `MemWrite` the bytes written read back and every other byte reads as before. -/
theorem Memory.readByte_writeBytes (m : Memory) (a x : Nat) (vs : List Byte) :
    (Memory.writeBytes m a vs).readByte x =
      if a ≤ x ∧ x < a + vs.length then vs.getD (x - a) 0#8 else Memory.readByte m x := by
  induction vs generalizing m a with
  | nil =>
    rw [if_neg (by simp)]
    rfl
  | cons v vs ih =>
    simp only [writeBytes, ih, readByte_writeByte, List.length_cons]
    by_cases h : x = a
    · subst h; simp
    · by_cases h2 : a + 1 ≤ x ∧ x < a + 1 + vs.length
      · rw [if_pos h2, if_pos (by omega), show x - a = (x - (a + 1)) + 1 by omega]; simp
      · rw [if_neg h2, if_neg h, if_neg (by omega)]

theorem Memory.readBytes_writeBytes (m : Memory) (a : Nat) (vs : List Byte) :
    (Memory.writeBytes m a vs).readBytes a vs.length = vs := by
  apply List.ext_getElem (by simp)
  intro j h1 h2
  have := getD_readBytes (Memory.writeBytes m a vs) a vs.length j 0#8
  rw [List.getD_eq_getElem _ _ h1, if_pos h2, readByte_writeBytes, if_pos (by omega)] at this
  rw [this, show a + j - a = j by omega, List.getD_eq_getElem _ _ h2]

/-- R61: byte `j` of the block at `a` is `M[a + j]`. -/
@[simp] theorem Memory.byte_readBlock (m : Memory) (a : Nat) (j : Fin 16) :
    (Memory.readBlock m a).byte j = Memory.readByte m (a + j.val) := by
  simp [readBlock]

theorem Memory.readByte_writeBlock (m : Memory) (a x : Nat) (b : Block) :
    (Memory.writeBlock m a b).readByte x =
      if h : a ≤ x ∧ x < a + 16 then b.byte ⟨x - a, by omega⟩ else Memory.readByte m x := by
  rw [writeBlock, readByte_writeBytes, Block.length_toBytes]
  split
  · rename_i h; exact Block.getD_toBytes b ⟨x - a, by omega⟩ 0#8
  · rfl

theorem Memory.readBlock_congr {m m' : Memory} {a : Nat}
    (h : ∀ j, j < 16 → Memory.readByte m (a + j) = Memory.readByte m' (a + j)) :
    Memory.readBlock m a = Memory.readBlock m' a :=
  Block.ext_byte fun j => by simp [h j.val j.isLt]

/-- The block at `a` is the first sixteen bytes of a read from there. -/
theorem Memory.ofBytes_readBytes (m : Memory) (a n : Nat) (h : 16 ≤ n) :
    Block.ofBytes (Memory.readBytes m a n) = Memory.readBlock m a :=
  Block.ext_byte fun j => by
    rw [Block.ofBytes, Block.byte_ofFn, getD_readBytes, if_pos (by omega), byte_readBlock]

/-- A byte of a written memory was there before or is the one written. -/
theorem Memory.mem_writeByte {m : Memory} {a : Nat} {v : Byte} {c : Host.Cell}
    (h : c ∈ Memory.writeByte m a v) : c ∈ m ∨ c = (a, v) := by
  induction m with
  | nil => simp [writeByte] at h; exact .inr h
  | cons d rest ih =>
    obtain ⟨b, u⟩ := d
    simp only [writeByte] at h
    split at h
    · simp only [List.mem_cons] at h ⊢; tauto
    · split at h
      · simp only [List.mem_cons] at h ⊢; tauto
      · simp only [List.mem_cons] at h ⊢
        rcases h with h | h
        · exact .inl (.inl h)
        · rcases ih h with h | h <;> tauto

theorem Memory.wf_writeByte {m : Memory} (a : Nat) (v : Byte) (h : Memory.wf m) :
    Memory.wf (Memory.writeByte m a v) := by
  induction m with
  | nil => simp [writeByte, Memory.wf]
  | cons d rest ih =>
    obtain ⟨b, u⟩ := d
    obtain ⟨h1, h2⟩ := List.pairwise_cons.mp h
    simp only [writeByte]
    split
    · rename_i hab
      refine List.pairwise_cons.mpr ⟨fun c hc => ?_, h⟩
      rcases List.mem_cons.mp hc with rfl | hc
      · exact hab
      · exact Nat.lt_trans hab (h1 c hc)
    · split
      · subst_vars; exact List.pairwise_cons.mpr ⟨h1, h2⟩
      · refine List.pairwise_cons.mpr ⟨fun c hc => ?_, ih h2⟩
        rcases mem_writeByte hc with hc | rfl
        · exact h1 c hc
        · show b < a; omega

theorem Memory.inside_writeByte {m : Memory} {a n : Nat} (v : Byte) (h : Memory.inside m n) (ha : a < n) :
    Memory.inside (Memory.writeByte m a v) n := by
  intro c hc
  rcases mem_writeByte hc with hc | rfl
  · exact h c hc
  · exact ha

/-- Every write keeps the canonical form. -/
theorem Memory.wf_writeBytes {m : Memory} (a : Nat) (vs : List Byte) (h : Memory.wf m) :
    Memory.wf (Memory.writeBytes m a vs) := by
  induction vs generalizing m a with
  | nil => exact h
  | cons v vs ih => exact ih (a + 1) (wf_writeByte a v h)

/-- A write inside a memory of `n` bytes keeps it inside. -/
theorem Memory.inside_writeBytes {m : Memory} {a n : Nat} {vs : List Byte} (h : Memory.inside m n)
    (ha : a + vs.length ≤ n) : Memory.inside (Memory.writeBytes m a vs) n := by
  induction vs generalizing m a with
  | nil => exact h
  | cons v vs ih =>
    simp only [List.length_cons] at ha
    exact ih (inside_writeByte v h (by omega)) (by omega)

theorem Memory.wf_writeBlock {m : Memory} (a : Nat) (b : Block) (h : Memory.wf m) :
    Memory.wf (Memory.writeBlock m a b) := wf_writeBytes a _ h

theorem Memory.inside_writeBlock {m : Memory} {a n : Nat} (b : Block) (h : Memory.inside m n)
    (ha : a + 16 ≤ n) : Memory.inside (Memory.writeBlock m a b) n := inside_writeBytes h ha

end Sys2Proof.Machine
end

