-- ==== Sys2Proof/Laws/State.lean ====
section
/-! SUPPORT. The small lemmas of State: each field of each named update, true by unfolding, so that no later
proof unfolds a record update. -/

namespace Sys2Proof.Machine

open Sys2Proof

section

variable (s : State)

@[simp] theorem State.setBlk_key (b : Block) : (s.setBlk b).key = s.key := rfl
@[simp] theorem State.setBlk_blk (b : Block) : (s.setBlk b).blk = b := rfl
@[simp] theorem State.setBlk_rk (b : Block) : (s.setBlk b).rk = s.rk := rfl
@[simp] theorem State.setBlk_err (b : Block) : (s.setBlk b).err = s.err := rfl
@[simp] theorem State.setBlk_cause (b : Block) : (s.setBlk b).cause = s.cause := rfl
@[simp] theorem State.setBlk_src (b : Block) : (s.setBlk b).src = s.src := rfl
@[simp] theorem State.setBlk_dst (b : Block) : (s.setBlk b).dst = s.dst := rfl
@[simp] theorem State.setBlk_len (b : Block) : (s.setBlk b).len = s.len := rfl
@[simp] theorem State.setBlk_mem (b : Block) : (s.setBlk b).mem = s.mem := rfl
@[simp] theorem State.setBlk_memSize (b : Block) : (s.setBlk b).memSize = s.memSize := rfl
@[simp] theorem State.setBlk_script (b : Block) : (s.setBlk b).script = s.script := rfl
@[simp] theorem State.setBlk_returned (b : Block) : (s.setBlk b).returned = s.returned := rfl

@[simp] theorem State.setSchedule_key (K : Schedule) : (s.setSchedule K).key = s.key := rfl
@[simp] theorem State.setSchedule_blk (K : Schedule) : (s.setSchedule K).blk = s.blk := rfl
@[simp] theorem State.setSchedule_rk (K : Schedule) : (s.setSchedule K).rk = some K := rfl
@[simp] theorem State.setSchedule_err (K : Schedule) : (s.setSchedule K).err = s.err := rfl
@[simp] theorem State.setSchedule_cause (K : Schedule) : (s.setSchedule K).cause = s.cause := rfl
@[simp] theorem State.setSchedule_src (K : Schedule) : (s.setSchedule K).src = s.src := rfl
@[simp] theorem State.setSchedule_dst (K : Schedule) : (s.setSchedule K).dst = s.dst := rfl
@[simp] theorem State.setSchedule_len (K : Schedule) : (s.setSchedule K).len = s.len := rfl
@[simp] theorem State.setSchedule_mem (K : Schedule) : (s.setSchedule K).mem = s.mem := rfl
@[simp] theorem State.setSchedule_memSize (K : Schedule) :
    (s.setSchedule K).memSize = s.memSize := rfl
@[simp] theorem State.setSchedule_script (K : Schedule) : (s.setSchedule K).script = s.script := rfl
@[simp] theorem State.setSchedule_returned (K : Schedule) :
    (s.setSchedule K).returned = s.returned := rfl

@[simp] theorem State.writeKeyWord_key (i : Fin 4) (v : Word) :
    (s.writeKeyWord i v).key = s.key.setWord i v := rfl
@[simp] theorem State.writeKeyWord_blk (i : Fin 4) (v : Word) :
    (s.writeKeyWord i v).blk = s.blk := rfl
@[simp] theorem State.writeKeyWord_rk (i : Fin 4) (v : Word) : (s.writeKeyWord i v).rk = none := rfl
@[simp] theorem State.writeKeyWord_err (i : Fin 4) (v : Word) :
    (s.writeKeyWord i v).err = s.err := rfl
@[simp] theorem State.writeKeyWord_cause (i : Fin 4) (v : Word) :
    (s.writeKeyWord i v).cause = s.cause := rfl
@[simp] theorem State.writeKeyWord_src (i : Fin 4) (v : Word) :
    (s.writeKeyWord i v).src = s.src := rfl
@[simp] theorem State.writeKeyWord_dst (i : Fin 4) (v : Word) :
    (s.writeKeyWord i v).dst = s.dst := rfl
@[simp] theorem State.writeKeyWord_len (i : Fin 4) (v : Word) :
    (s.writeKeyWord i v).len = s.len := rfl
@[simp] theorem State.writeKeyWord_mem (i : Fin 4) (v : Word) :
    (s.writeKeyWord i v).mem = s.mem := rfl
@[simp] theorem State.writeKeyWord_memSize (i : Fin 4) (v : Word) :
    (s.writeKeyWord i v).memSize = s.memSize := rfl
@[simp] theorem State.writeKeyWord_script (i : Fin 4) (v : Word) :
    (s.writeKeyWord i v).script = s.script := rfl
@[simp] theorem State.writeKeyWord_returned (i : Fin 4) (v : Word) :
    (s.writeKeyWord i v).returned = s.returned := rfl

@[simp] theorem State.writeBlkWord_key (i : Fin 4) (v : Word) :
    (s.writeBlkWord i v).key = s.key := rfl
@[simp] theorem State.writeBlkWord_blk (i : Fin 4) (v : Word) :
    (s.writeBlkWord i v).blk = s.blk.setWord i v := rfl
@[simp] theorem State.writeBlkWord_rk (i : Fin 4) (v : Word) : (s.writeBlkWord i v).rk = s.rk := rfl
@[simp] theorem State.writeBlkWord_err (i : Fin 4) (v : Word) :
    (s.writeBlkWord i v).err = s.err := rfl
@[simp] theorem State.writeBlkWord_cause (i : Fin 4) (v : Word) :
    (s.writeBlkWord i v).cause = s.cause := rfl
@[simp] theorem State.writeBlkWord_src (i : Fin 4) (v : Word) :
    (s.writeBlkWord i v).src = s.src := rfl
@[simp] theorem State.writeBlkWord_dst (i : Fin 4) (v : Word) :
    (s.writeBlkWord i v).dst = s.dst := rfl
@[simp] theorem State.writeBlkWord_len (i : Fin 4) (v : Word) :
    (s.writeBlkWord i v).len = s.len := rfl
@[simp] theorem State.writeBlkWord_mem (i : Fin 4) (v : Word) :
    (s.writeBlkWord i v).mem = s.mem := rfl
@[simp] theorem State.writeBlkWord_memSize (i : Fin 4) (v : Word) :
    (s.writeBlkWord i v).memSize = s.memSize := rfl
@[simp] theorem State.writeBlkWord_script (i : Fin 4) (v : Word) :
    (s.writeBlkWord i v).script = s.script := rfl
@[simp] theorem State.writeBlkWord_returned (i : Fin 4) (v : Word) :
    (s.writeBlkWord i v).returned = s.returned := rfl

@[simp] theorem State.setSrc_key (v : Word) : (s.setSrc v).key = s.key := rfl
@[simp] theorem State.setSrc_blk (v : Word) : (s.setSrc v).blk = s.blk := rfl
@[simp] theorem State.setSrc_rk (v : Word) : (s.setSrc v).rk = s.rk := rfl
@[simp] theorem State.setSrc_err (v : Word) : (s.setSrc v).err = s.err := rfl
@[simp] theorem State.setSrc_cause (v : Word) : (s.setSrc v).cause = s.cause := rfl
@[simp] theorem State.setSrc_src (v : Word) : (s.setSrc v).src = v := rfl
@[simp] theorem State.setSrc_dst (v : Word) : (s.setSrc v).dst = s.dst := rfl
@[simp] theorem State.setSrc_len (v : Word) : (s.setSrc v).len = s.len := rfl
@[simp] theorem State.setSrc_mem (v : Word) : (s.setSrc v).mem = s.mem := rfl
@[simp] theorem State.setSrc_memSize (v : Word) : (s.setSrc v).memSize = s.memSize := rfl
@[simp] theorem State.setSrc_script (v : Word) : (s.setSrc v).script = s.script := rfl
@[simp] theorem State.setSrc_returned (v : Word) : (s.setSrc v).returned = s.returned := rfl

@[simp] theorem State.setDst_key (v : Word) : (s.setDst v).key = s.key := rfl
@[simp] theorem State.setDst_blk (v : Word) : (s.setDst v).blk = s.blk := rfl
@[simp] theorem State.setDst_rk (v : Word) : (s.setDst v).rk = s.rk := rfl
@[simp] theorem State.setDst_err (v : Word) : (s.setDst v).err = s.err := rfl
@[simp] theorem State.setDst_cause (v : Word) : (s.setDst v).cause = s.cause := rfl
@[simp] theorem State.setDst_src (v : Word) : (s.setDst v).src = s.src := rfl
@[simp] theorem State.setDst_dst (v : Word) : (s.setDst v).dst = v := rfl
@[simp] theorem State.setDst_len (v : Word) : (s.setDst v).len = s.len := rfl
@[simp] theorem State.setDst_mem (v : Word) : (s.setDst v).mem = s.mem := rfl
@[simp] theorem State.setDst_memSize (v : Word) : (s.setDst v).memSize = s.memSize := rfl
@[simp] theorem State.setDst_script (v : Word) : (s.setDst v).script = s.script := rfl
@[simp] theorem State.setDst_returned (v : Word) : (s.setDst v).returned = s.returned := rfl

@[simp] theorem State.setLen_key (v : Word) : (s.setLen v).key = s.key := rfl
@[simp] theorem State.setLen_blk (v : Word) : (s.setLen v).blk = s.blk := rfl
@[simp] theorem State.setLen_rk (v : Word) : (s.setLen v).rk = s.rk := rfl
@[simp] theorem State.setLen_err (v : Word) : (s.setLen v).err = s.err := rfl
@[simp] theorem State.setLen_cause (v : Word) : (s.setLen v).cause = s.cause := rfl
@[simp] theorem State.setLen_src (v : Word) : (s.setLen v).src = s.src := rfl
@[simp] theorem State.setLen_dst (v : Word) : (s.setLen v).dst = s.dst := rfl
@[simp] theorem State.setLen_len (v : Word) : (s.setLen v).len = v := rfl
@[simp] theorem State.setLen_mem (v : Word) : (s.setLen v).mem = s.mem := rfl
@[simp] theorem State.setLen_memSize (v : Word) : (s.setLen v).memSize = s.memSize := rfl
@[simp] theorem State.setLen_script (v : Word) : (s.setLen v).script = s.script := rfl
@[simp] theorem State.setLen_returned (v : Word) : (s.setLen v).returned = s.returned := rfl

@[simp] theorem State.setMem_key (m : Memory) : (s.setMem m).key = s.key := rfl
@[simp] theorem State.setMem_blk (m : Memory) : (s.setMem m).blk = s.blk := rfl
@[simp] theorem State.setMem_rk (m : Memory) : (s.setMem m).rk = s.rk := rfl
@[simp] theorem State.setMem_err (m : Memory) : (s.setMem m).err = s.err := rfl
@[simp] theorem State.setMem_cause (m : Memory) : (s.setMem m).cause = s.cause := rfl
@[simp] theorem State.setMem_src (m : Memory) : (s.setMem m).src = s.src := rfl
@[simp] theorem State.setMem_dst (m : Memory) : (s.setMem m).dst = s.dst := rfl
@[simp] theorem State.setMem_len (m : Memory) : (s.setMem m).len = s.len := rfl
@[simp] theorem State.setMem_mem (m : Memory) : (s.setMem m).mem = m := rfl
@[simp] theorem State.setMem_memSize (m : Memory) : (s.setMem m).memSize = s.memSize := rfl
@[simp] theorem State.setMem_script (m : Memory) : (s.setMem m).script = s.script := rfl
@[simp] theorem State.setMem_returned (m : Memory) : (s.setMem m).returned = s.returned := rfl

@[simp] theorem State.record_key (r : Returned) : (s.record r).key = s.key := rfl
@[simp] theorem State.record_blk (r : Returned) : (s.record r).blk = s.blk := rfl
@[simp] theorem State.record_rk (r : Returned) : (s.record r).rk = s.rk := rfl
@[simp] theorem State.record_err (r : Returned) : (s.record r).err = s.err := rfl
@[simp] theorem State.record_cause (r : Returned) : (s.record r).cause = s.cause := rfl
@[simp] theorem State.record_src (r : Returned) : (s.record r).src = s.src := rfl
@[simp] theorem State.record_dst (r : Returned) : (s.record r).dst = s.dst := rfl
@[simp] theorem State.record_len (r : Returned) : (s.record r).len = s.len := rfl
@[simp] theorem State.record_mem (r : Returned) : (s.record r).mem = s.mem := rfl
@[simp] theorem State.record_memSize (r : Returned) : (s.record r).memSize = s.memSize := rfl
@[simp] theorem State.record_script (r : Returned) : (s.record r).script = s.script := rfl
@[simp] theorem State.record_returned (r : Returned) :
    (s.record r).returned = s.returned ++ [r] := rfl

@[simp] theorem State.recordFault_key (c : Cause) : (s.recordFault c).key = s.key := rfl
@[simp] theorem State.recordFault_blk (c : Cause) : (s.recordFault c).blk = s.blk := rfl
@[simp] theorem State.recordFault_rk (c : Cause) : (s.recordFault c).rk = s.rk := rfl
@[simp] theorem State.recordFault_err (c : Cause) : (s.recordFault c).err = true := rfl
@[simp] theorem State.recordFault_cause (c : Cause) :
    (s.recordFault c).cause = if s.err then s.cause else c := rfl
@[simp] theorem State.recordFault_src (c : Cause) : (s.recordFault c).src = s.src := rfl
@[simp] theorem State.recordFault_dst (c : Cause) : (s.recordFault c).dst = s.dst := rfl
@[simp] theorem State.recordFault_len (c : Cause) : (s.recordFault c).len = s.len := rfl
@[simp] theorem State.recordFault_mem (c : Cause) : (s.recordFault c).mem = s.mem := rfl
@[simp] theorem State.recordFault_memSize (c : Cause) : (s.recordFault c).memSize = s.memSize := rfl
@[simp] theorem State.recordFault_script (c : Cause) : (s.recordFault c).script = s.script := rfl
@[simp] theorem State.recordFault_returned (c : Cause) :
    (s.recordFault c).returned = s.returned := rfl

@[simp] theorem State.clearFault_key : s.clearFault.key = s.key := rfl
@[simp] theorem State.clearFault_blk : s.clearFault.blk = s.blk := rfl
@[simp] theorem State.clearFault_rk : s.clearFault.rk = s.rk := rfl
@[simp] theorem State.clearFault_err : s.clearFault.err = false := rfl
@[simp] theorem State.clearFault_cause : s.clearFault.cause = Cause.none := rfl
@[simp] theorem State.clearFault_src : s.clearFault.src = s.src := rfl
@[simp] theorem State.clearFault_dst : s.clearFault.dst = s.dst := rfl
@[simp] theorem State.clearFault_len : s.clearFault.len = s.len := rfl
@[simp] theorem State.clearFault_mem : s.clearFault.mem = s.mem := rfl
@[simp] theorem State.clearFault_memSize : s.clearFault.memSize = s.memSize := rfl
@[simp] theorem State.clearFault_script : s.clearFault.script = s.script := rfl
@[simp] theorem State.clearFault_returned : s.clearFault.returned = s.returned := rfl

@[simp] theorem State.resetRegisters_key : s.resetRegisters.key = Block.zero := rfl
@[simp] theorem State.resetRegisters_blk : s.resetRegisters.blk = Block.zero := rfl
@[simp] theorem State.resetRegisters_rk : s.resetRegisters.rk = none := rfl
@[simp] theorem State.resetRegisters_err : s.resetRegisters.err = false := rfl
@[simp] theorem State.resetRegisters_cause : s.resetRegisters.cause = Cause.none := rfl
@[simp] theorem State.resetRegisters_src : s.resetRegisters.src = 0#32 := rfl
@[simp] theorem State.resetRegisters_dst : s.resetRegisters.dst = 0#32 := rfl
@[simp] theorem State.resetRegisters_len : s.resetRegisters.len = 0#32 := rfl
@[simp] theorem State.resetRegisters_mem : s.resetRegisters.mem = s.mem := rfl
@[simp] theorem State.resetRegisters_memSize : s.resetRegisters.memSize = s.memSize := rfl
@[simp] theorem State.resetRegisters_script : s.resetRegisters.script = s.script := rfl
@[simp] theorem State.resetRegisters_returned : s.resetRegisters.returned = s.returned := rfl

@[simp] theorem State.withScript_key (l : List HostOp) : (s.withScript l).key = s.key := rfl
@[simp] theorem State.withScript_blk (l : List HostOp) : (s.withScript l).blk = s.blk := rfl
@[simp] theorem State.withScript_rk (l : List HostOp) : (s.withScript l).rk = s.rk := rfl
@[simp] theorem State.withScript_err (l : List HostOp) : (s.withScript l).err = s.err := rfl
@[simp] theorem State.withScript_cause (l : List HostOp) : (s.withScript l).cause = s.cause := rfl
@[simp] theorem State.withScript_src (l : List HostOp) : (s.withScript l).src = s.src := rfl
@[simp] theorem State.withScript_dst (l : List HostOp) : (s.withScript l).dst = s.dst := rfl
@[simp] theorem State.withScript_len (l : List HostOp) : (s.withScript l).len = s.len := rfl
@[simp] theorem State.withScript_mem (l : List HostOp) : (s.withScript l).mem = s.mem := rfl
@[simp] theorem State.withScript_memSize (l : List HostOp) :
    (s.withScript l).memSize = s.memSize := rfl
@[simp] theorem State.withScript_script (l : List HostOp) : (s.withScript l).script = l := rfl
@[simp] theorem State.withScript_returned (l : List HostOp) :
    (s.withScript l).returned = s.returned := rfl

@[simp] theorem State.hostNext_key (op : HostOp) : (s.hostNext op).key = s.key := rfl
@[simp] theorem State.hostNext_blk (op : HostOp) : (s.hostNext op).blk = s.blk := rfl
@[simp] theorem State.hostNext_rk (op : HostOp) : (s.hostNext op).rk = s.rk := rfl
@[simp] theorem State.hostNext_err (op : HostOp) : (s.hostNext op).err = s.err := rfl
@[simp] theorem State.hostNext_cause (op : HostOp) : (s.hostNext op).cause = s.cause := rfl
@[simp] theorem State.hostNext_src (op : HostOp) : (s.hostNext op).src = s.src := rfl
@[simp] theorem State.hostNext_dst (op : HostOp) : (s.hostNext op).dst = s.dst := rfl
@[simp] theorem State.hostNext_len (op : HostOp) : (s.hostNext op).len = s.len := rfl
@[simp] theorem State.hostNext_mem (op : HostOp) : (s.hostNext op).mem = s.mem := rfl
@[simp] theorem State.hostNext_memSize (op : HostOp) : (s.hostNext op).memSize = s.memSize := rfl
@[simp] theorem State.hostNext_script (op : HostOp) : (s.hostNext op).script = op :: s.script := rfl
@[simp] theorem State.hostNext_returned (op : HostOp) : (s.hostNext op).returned = s.returned := rfl

@[simp] theorem State.powerOn_key (n : Nat) : (State.powerOn n).key = Block.zero := rfl
@[simp] theorem State.powerOn_blk (n : Nat) : (State.powerOn n).blk = Block.zero := rfl
@[simp] theorem State.powerOn_rk (n : Nat) : (State.powerOn n).rk = none := rfl
@[simp] theorem State.powerOn_err (n : Nat) : (State.powerOn n).err = false := rfl
@[simp] theorem State.powerOn_cause (n : Nat) : (State.powerOn n).cause = Cause.none := rfl
@[simp] theorem State.powerOn_src (n : Nat) : (State.powerOn n).src = 0#32 := rfl
@[simp] theorem State.powerOn_dst (n : Nat) : (State.powerOn n).dst = 0#32 := rfl
@[simp] theorem State.powerOn_len (n : Nat) : (State.powerOn n).len = 0#32 := rfl
@[simp] theorem State.powerOn_mem (n : Nat) : (State.powerOn n).mem = [] := rfl
@[simp] theorem State.powerOn_memSize (n : Nat) : (State.powerOn n).memSize = n := rfl
@[simp] theorem State.powerOn_script (n : Nat) : (State.powerOn n).script = [] := rfl
@[simp] theorem State.powerOn_returned (n : Nat) : (State.powerOn n).returned = [] := rfl

end

end Sys2Proof.Machine
end

