-- ==== Sys2Proof/Laws/Ops.lean ====
section
/-! SUPPORT. What each shared operation can do, said once: faults, the schedule operand, commands on BLK,
the loop of ECBD, register reads, the fault relation. -/

namespace Sys2Proof.Machine

open Sys2Proof

/-- R214: taking a fault always answers the state with the fault recorded. -/
@[simp] theorem raiseFault_eq (c : Cause) (s : State) : raiseFault c s = .next (s.recordFault c) := rfl

/-- R214: the state with a fault recorded is the one the fault relation describes. -/
theorem faultEntered_recordFault (c : Cause) (s : State) :
    State.FaultEntered c s (s.recordFault c) := by
  simp [State.FaultEntered, State.UnchangedExcept]

/-- R160: a command on BLK always answers, with BLK replaced and nothing else. -/
@[simp] theorem applyToBlk_eq (f : Block → Block) (s : State) :
    applyToBlk f s = .next (s.setBlk (f s.blk)) := rfl

/-- A command on BLK changes nothing else. -/
theorem unchangedExcept_setBlk (s : State) (b : Block) :
    State.UnchangedExcept [.blk] s (s.setBlk b) := by
  simp [State.UnchangedExcept]

theorem withSchedule_none {s : State} (h : s.rk = none) (k : Schedule → Result) :
    withSchedule s k = .next (s.recordFault .nokey) := by
  simp [withSchedule, h]

theorem withSchedule_some {s : State} {K : Schedule} (h : s.rk = some K) (k : Schedule → Result) :
    withSchedule s k = k K := by
  simp [withSchedule, h]

/-- The schedule operand: either NOKEY is recorded, or the command goes on with the stored schedule. -/
theorem withSchedule_cases {s t : State} {k : Schedule → Result} (h : withSchedule s k = .next t) :
    (s.rk = none ∧ t = s.recordFault .nokey) ∨ ∃ K, s.rk = some K ∧ k K = .next t := by
  cases hs : s.rk with
  | none => rw [withSchedule_none hs] at h; injection h with h; exact .inl ⟨rfl, h.symm⟩
  | some K => rw [withSchedule_some hs] at h; exact .inr ⟨K, rfl, h⟩

theorem roundIndex_some {r : BitVec 4} (h : r.toNat ≤ 10) :
    roundIndex r = some ⟨r.toNat, Nat.lt_succ_of_le h⟩ := by simp [roundIndex, h]

theorem roundIndex_none {r : BitVec 4} (h : 10 < r.toNat) : roundIndex r = none := by
  simp [roundIndex]; omega

/-- The body of ECBD's loop: block `i` of the destination and BLK take the decrypted block. -/
theorem ecbBlockStep_eq (f : Block → Block) (i : Nat) (s : State) :
    ∃ p, p = f (s.mem.readBlock (s.ecbSrc + 16 * i)) ∧
      ecbBlockStep f i s = (s.setMem (s.mem.writeBlock (s.ecbDst + 16 * i) p)).setBlk p :=
  ⟨_, rfl, by unfold ecbBlockStep; rfl⟩

/-- The body of ECBD's loop leaves SRC, DST and MEMSIZE. -/
theorem ecbBlockStep_keeps (f : Block → Block) (i : Nat) (s : State) :
    (ecbBlockStep f i s).ecbSrc = s.ecbSrc ∧ (ecbBlockStep f i s).ecbDst = s.ecbDst ∧
      (ecbBlockStep f i s).memSize = s.memSize := by
  obtain ⟨p, -, h⟩ := ecbBlockStep_eq f i s
  simp [h, State.ecbSrc, State.ecbDst]

theorem readByte_ecbBlockStep (f : Block → Block) (i : Nat) (s : State) (x : Nat) :
    (ecbBlockStep f i s).mem.readByte x =
      if h : s.ecbDst + 16 * i ≤ x ∧ x < s.ecbDst + 16 * i + 16 then
        (f (s.mem.readBlock (s.ecbSrc + 16 * i))).byte ⟨x - (s.ecbDst + 16 * i), by omega⟩
      else s.mem.readByte x := by
  obtain ⟨p, hp, h⟩ := ecbBlockStep_eq f i s
  rw [h, ← hp, State.setBlk_mem, State.setMem_mem, Memory.readByte_writeBlock]

/-- ECBD's loop changes M and BLK only. -/
theorem ecbLoop_eq (f : Block → Block) (n i : Nat) (s : State) :
    ∃ m b, ecbLoop f n i s = (s.setMem m).setBlk b := by
  induction n generalizing i s with
  | zero => exact ⟨s.mem, s.blk, rfl⟩
  | succ n ih =>
    obtain ⟨p, -, h⟩ := ecbBlockStep_eq f i s
    obtain ⟨m, b, hl⟩ := ih (i + 1) (ecbBlockStep f i s)
    exact ⟨m, b, by rw [ecbLoop, hl, h]; simp only [State.setBlk, State.setMem]⟩

/-- R192: what the loop over `n` blocks from block `i` leaves in M, byte by byte, the read range and the
written range being disjoint: each block written holds the decryption of its source block. -/
theorem readByte_ecbLoop (f : Block → Block) (n i : Nat) (s : State)
    (hd : s.ecbSrc + 16 * (i + n) ≤ s.ecbDst + 16 * i ∨ s.ecbDst + 16 * (i + n) ≤ s.ecbSrc + 16 * i)
    (a : Nat) :
    (ecbLoop f n i s).mem.readByte a =
      if s.ecbDst + 16 * i ≤ a ∧ a < s.ecbDst + 16 * (i + n) then
        (f (s.mem.readBlock (s.ecbSrc + 16 * ((a - s.ecbDst) / 16)))).byte
          (Fin.ofNat 16 (a - s.ecbDst))
      else s.mem.readByte a := by
  induction n generalizing i s with
  | zero => rw [if_neg (by omega), ecbLoop]
  | succ n ih =>
    obtain ⟨hs, hd', -⟩ := ecbBlockStep_keeps f i s
    rw [ecbLoop, ih (i + 1) (ecbBlockStep f i s) (by rw [hs, hd']; omega), hs, hd']
    by_cases h1 : s.ecbDst + 16 * (i + 1) ≤ a ∧ a < s.ecbDst + 16 * (i + 1 + n)
    · rw [if_pos h1, if_pos (by omega)]
      have hb : (ecbBlockStep f i s).mem.readBlock (s.ecbSrc + 16 * ((a - s.ecbDst) / 16)) =
          s.mem.readBlock (s.ecbSrc + 16 * ((a - s.ecbDst) / 16)) :=
        Memory.readBlock_congr fun j hj => by rw [readByte_ecbBlockStep, dif_neg (by omega)]
      rw [hb]
    · rw [if_neg h1, readByte_ecbBlockStep]
      by_cases h2 : s.ecbDst + 16 * i ≤ a ∧ a < s.ecbDst + 16 * i + 16
      · rw [dif_pos h2, if_pos (by omega), show (a - s.ecbDst) / 16 = i by omega]
        generalize f _ = p
        congr 1
        apply Fin.ext
        simp only [Fin.ofNat]
        omega
      · rw [dif_neg h2, if_neg (by omega)]

/-- R192: BLK after the loop over at least one block is the decryption of the last source block. -/
theorem blk_ecbLoop (f : Block → Block) (n i : Nat) (s : State)
    (hd : s.ecbSrc + 16 * (i + (n + 1)) ≤ s.ecbDst + 16 * i ∨
      s.ecbDst + 16 * (i + (n + 1)) ≤ s.ecbSrc + 16 * i) :
    (ecbLoop f (n + 1) i s).blk = f (s.mem.readBlock (s.ecbSrc + 16 * (i + n))) := by
  induction n generalizing i s with
  | zero =>
    obtain ⟨p, hp, h⟩ := ecbBlockStep_eq f i s
    rw [ecbLoop, ecbLoop, h, State.setBlk_blk, hp]
    rfl
  | succ n ih =>
    obtain ⟨hs, hd', -⟩ := ecbBlockStep_keeps f i s
    rw [ecbLoop, ih (i + 1) (ecbBlockStep f i s) (by rw [hs, hd']; omega), hs]
    rw [show i + 1 + n = i + (n + 1) by omega]
    have hb : (ecbBlockStep f i s).mem.readBlock (s.ecbSrc + 16 * (i + (n + 1))) =
        s.mem.readBlock (s.ecbSrc + 16 * (i + (n + 1))) :=
      Memory.readBlock_congr fun j hj => by rw [readByte_ecbBlockStep, dif_neg (by omega)]
    rw [hb]

/-- ECBD's loop keeps M canonical. -/
theorem wf_ecbLoop (f : Block → Block) (n i : Nat) (s : State) (h : s.mem.wf) :
    (ecbLoop f n i s).mem.wf := by
  induction n generalizing i s with
  | zero => exact h
  | succ n ih =>
    obtain ⟨p, -, hp⟩ := ecbBlockStep_eq f i s
    rw [ecbLoop]
    refine ih (i + 1) (ecbBlockStep f i s) ?_
    rw [hp, State.setBlk_mem, State.setMem_mem]
    exact Memory.wf_writeBlock _ p h

/-- ECBD's loop over a destination inside MEMSIZE keeps M inside it. -/
theorem inside_ecbLoop (f : Block → Block) (n i : Nat) (s : State) (h : s.mem.inside s.memSize)
    (hb : s.ecbDst + 16 * (i + n) ≤ s.memSize) :
    (ecbLoop f n i s).mem.inside s.memSize := by
  induction n generalizing i s with
  | zero => exact h
  | succ n ih =>
    obtain ⟨p, -, hp⟩ := ecbBlockStep_eq f i s
    obtain ⟨-, hd', hm⟩ := ecbBlockStep_keeps f i s
    rw [ecbLoop, ← hm]
    refine ih (i + 1) (ecbBlockStep f i s) ?_ (by rw [hd', hm]; omega)
    rw [hm, hp, State.setBlk_mem, State.setMem_mem]
    exact Memory.inside_writeBlock p h (by omega)

/-- The cases of ECBD (R191, R192): which fault it records, or that its loop runs. -/
theorem execEcbd_cases {s t : State} (h : execEcbd s = .next t) :
    (s.rk = none ∧ t = s.recordFault .nokey) ∨
    ∃ K, s.rk = some K ∧
      ((s.ecbLengthBad = true ∧ t = s.recordFault .length) ∨
       (s.ecbLengthBad = false ∧ s.ecbOutOfBounds = true ∧ t = s.recordFault .bounds) ∨
       (s.ecbLengthBad = false ∧ s.ecbOutOfBounds = false ∧ s.ecbOverlap = true ∧
         t = s.recordFault .overlap) ∨
       (s.ecbLengthBad = false ∧ s.ecbOutOfBounds = false ∧ s.ecbOverlap = false ∧
         t = ecbLoop (fun c => decrypt c K) (s.ecbLen / 16) 0 s)) := by
  rcases withSchedule_cases h with h | ⟨K, hK, h⟩
  · exact .inl h
  · refine .inr ⟨K, hK, ?_⟩
    revert h
    cases s.ecbLengthBad <;> cases s.ecbOutOfBounds <;> cases s.ecbOverlap <;>
      simp only [raiseFault_eq, Bool.false_eq_true, if_true, if_false, Host.Outcome.next.injEq] <;>
      intro h <;> simp [h]

end Sys2Proof.Machine
end

