-- ==== Sys2Proof/Laws/Exec.lean ====
section
/-! SUPPORT. What a command can do, said once: the cases of `exec`, and what they leave of the invariant. -/

namespace Sys2Proof.Machine

open Sys2Proof

/-- The only terms that are no command: ARK with an index above ten, the illegal command (R96, R202). -/
theorem exec_of_not_wellFormed {i : Instr} (h : ¬ i.wellFormed = true) (s : State) :
    exec i s = .next (s.recordFault .illcmd) := by
  cases i with
  | ark r =>
    have hr : 10 < r.toNat := by simpa [Instr.wellFormed] using h
    simp only [exec, execArk, roundIndex_none hr, raiseFault_eq]
  | _ => exact absurd rfl h

/-- A well-formed command records a fault that R212 gives it, or is one of the three that write registers
other than BLK, or replaces BLK, or is ECBD and replaces M and BLK. -/
theorem exec_cases {i : Instr} {s t : State} (hw : i.wellFormed = true) (h : exec i s = .next t) :
    (∃ c, mayRaise i c = true ∧ t = s.recordFault c) ∨
    (i = .kexp ∧ t = s.setSchedule (expandKey s.key)) ∨
    (i = .zeroize ∧ t = s.resetRegisters) ∨
    (i = .clrerr ∧ t = s.clearFault) ∨
    (∃ b, t = s.setBlk b) ∨
    (∃ m b, i = .ecbd ∧ t = (s.setMem m).setBlk b) := by
  cases i with
  | ark r =>
    have hr : r.toNat ≤ 10 := by simpa [Instr.wellFormed] using hw
    simp only [exec, execArk, roundIndex_some hr] at h
    rcases withSchedule_cases h with ⟨_, rfl⟩ | ⟨K, _, h⟩
    · exact .inl ⟨_, by simp [mayRaise], rfl⟩
    · cases h; exact .inr (.inr (.inr (.inr (.inl ⟨_, rfl⟩))))
  | encb =>
    rcases withSchedule_cases h with ⟨_, rfl⟩ | ⟨K, _, h⟩
    · exact .inl ⟨_, by simp [mayRaise], rfl⟩
    · cases h; exact .inr (.inr (.inr (.inr (.inl ⟨_, rfl⟩))))
  | decb =>
    rcases withSchedule_cases h with ⟨_, rfl⟩ | ⟨K, _, h⟩
    · exact .inl ⟨_, by simp [mayRaise], rfl⟩
    · cases h; exact .inr (.inr (.inr (.inr (.inl ⟨_, rfl⟩))))
  | ecbd =>
    rcases execEcbd_cases h with
      ⟨_, rfl⟩ | ⟨K, _, ⟨_, rfl⟩ | ⟨_, _, rfl⟩ | ⟨_, _, _, rfl⟩ | ⟨_, _, _, rfl⟩⟩
    · exact .inl ⟨_, by simp [mayRaise], rfl⟩
    · exact .inl ⟨_, by simp [mayRaise], rfl⟩
    · exact .inl ⟨_, by simp [mayRaise], rfl⟩
    · exact .inl ⟨_, by simp [mayRaise], rfl⟩
    · obtain ⟨m, b, h⟩ := ecbLoop_eq (fun c => decrypt c K) (s.ecbLen / 16) 0 s
      exact .inr (.inr (.inr (.inr (.inr ⟨m, b, rfl, h⟩))))
  | kexp => cases h; exact .inr (.inl ⟨rfl, rfl⟩)
  | zeroize => cases h; exact .inr (.inr (.inl ⟨rfl, rfl⟩))
  | clrerr => cases h; exact .inr (.inr (.inr (.inl ⟨rfl, rfl⟩)))
  | subb => cases h; exact .inr (.inr (.inr (.inr (.inl ⟨_, rfl⟩))))
  | isubb => cases h; exact .inr (.inr (.inr (.inr (.inl ⟨_, rfl⟩))))
  | shrow => cases h; exact .inr (.inr (.inr (.inr (.inl ⟨_, rfl⟩))))
  | ishrow => cases h; exact .inr (.inr (.inr (.inr (.inl ⟨_, rfl⟩))))
  | mixc => cases h; exact .inr (.inr (.inr (.inr (.inl ⟨_, rfl⟩))))
  | imixc => cases h; exact .inr (.inr (.inr (.inr (.inl ⟨_, rfl⟩))))

@[simp] theorem execAll_nil (s : State) : execAll [] s = .next s := rfl

/-- The first command of a sequence, then the others from the state it leaves. -/
theorem execAll_cons {i : Instr} {s t : State} (h : exec i s = .next t) (is : List Instr) :
    execAll (i :: is) s = execAll is t := by simp [execAll, h]

/-- R214, R217: recording a fault keeps CAUSE = 0 exactly when ERR = 0. -/
theorem faultOk_recordFault {s : State} {c : Cause} (h : s.FaultOk) (hc : c ≠ .none) :
    (s.recordFault c).FaultOk := by
  unfold State.FaultOk at *
  cases he : s.err
  · simp [he, hc]
  · simp [he] at h ⊢; exact h

/-- ECBD's loop does not look at ERR or CAUSE (R29). -/
theorem ecbLoop_withFault (f : Block → Block) (n i : Nat) (s : State) (e : Bool) (c : Cause) :
    ecbLoop f n i { s with err := e, cause := c } =
      { ecbLoop f n i s with err := e, cause := c } := by
  induction n generalizing i s with
  | zero => rfl
  | succ n ih => rw [ecbLoop, ecbLoop, ← ih]; rfl

/-- ECBD's loop does not look at KEY (R21). -/
theorem ecbLoop_withKey (f : Block → Block) (n i : Nat) (s : State) (k : Block) :
    ecbLoop f n i { s with key := k } = { ecbLoop f n i s with key := k } := by
  induction n generalizing i s with
  | zero => rfl
  | succ n ih => rw [ecbLoop, ecbLoop, ← ih]; rfl

end Sys2Proof.Machine
end

