-- ==== Sys2Proof/Laws/KeySchedule.lean ====
section
/-! SUPPORT. The list of schedule words and the schedule packed from it, without unfolding the 44 words. -/

namespace Sys2Proof

/-- R151: the four words a list of schedule words starts with are the four it is given. -/
theorem scheduleWordsFrom_getD_lt (n i : Nat) (w0 w1 w2 w3 : Word) :
    (scheduleWordsFrom (n + 4) i w0 w1 w2 w3).getD 0 0#32 = w0 ∧
    (scheduleWordsFrom (n + 4) i w0 w1 w2 w3).getD 1 0#32 = w1 ∧
    (scheduleWordsFrom (n + 4) i w0 w1 w2 w3).getD 2 0#32 = w2 ∧
    (scheduleWordsFrom (n + 4) i w0 w1 w2 w3).getD 3 0#32 = w3 := by
  simp [scheduleWordsFrom]

/-- R151: each later word of the list is `nextWord` of the words four and one before it. -/
theorem scheduleWordsFrom_getD_add (n i k : Nat) (w0 w1 w2 w3 : Word) (h : k < n) :
    (scheduleWordsFrom (n + 4) i w0 w1 w2 w3).getD (k + 4) 0#32 =
      nextWord (i + k) ((scheduleWordsFrom (n + 4) i w0 w1 w2 w3).getD k 0#32)
        ((scheduleWordsFrom (n + 4) i w0 w1 w2 w3).getD (k + 3) 0#32) := by
  induction k generalizing n i w0 w1 w2 w3 with
  | zero =>
    obtain ⟨n, rfl⟩ : ∃ m, n = m + 1 := ⟨n - 1, by omega⟩
    simp [scheduleWordsFrom]
  | succ k ih =>
    obtain ⟨n, rfl⟩ : ∃ m, n = m + 1 := ⟨n - 1, by omega⟩
    have h' := ih n (i + 1) w1 w2 w3 (nextWord i w0 w3) (by omega)
    rw [show n + 1 + 4 = (n + 4) + 1 by omega, scheduleWordsFrom]
    rw [show k + 1 + 4 = (k + 4) + 1 by omega, show k + 1 + 3 = (k + 3) + 1 by omega,
      List.getD_cons_succ, List.getD_cons_succ, List.getD_cons_succ, h',
      show i + 1 + k = i + (k + 1) by omega]

/-- R152: word `k` of round key `r` is schedule word `4r + k`. -/
theorem word_roundKeyOf (ws : List Word) (r : Nat) (k : Fin 4) :
    (roundKeyOf ws r).word k = ws.getD (4 * r + k.val) 0#32 := by
  fin_cases k <;> simp [roundKeyOf, Block.ofWords, Block.word, Block.col]

/-- R152: `W[i]` of the expanded key is word `i` of the list of R151. -/
theorem W_expandKey (key : Block) (i : Nat) (h : i < 44) :
    (expandKey key).W i = (scheduleWords key).getD i 0#32 := by
  have hi : (Fin.ofNat 44 i).val = i := Nat.mod_eq_of_lt h
  rw [Schedule.W, Schedule.word, expandKey, Schedule.get_ofFn, word_roundKeyOf]
  simp only [hi]
  rw [Nat.div_add_mod]

/-- R150: the first four schedule words are the key's. -/
theorem W_expandKey_key (key : Block) (i : Fin 4) : (expandKey key).W i.val = key.word i := by
  rw [W_expandKey key i.val (by omega), scheduleWords]
  obtain ⟨h0, h1, h2, h3⟩ :=
    scheduleWordsFrom_getD_lt 40 4 (key.word 0) (key.word 1) (key.word 2) (key.word 3)
  fin_cases i
  · exact h0
  · exact h1
  · exact h2
  · exact h3

/-- R151: the recurrence of the schedule words. -/
theorem W_expandKey_next (key : Block) (k : Nat) (h : k < 40) :
    (expandKey key).W (k + 4) =
      nextWord (k + 4) ((expandKey key).W k) ((expandKey key).W (k + 3)) := by
  rw [W_expandKey key _ (by omega), W_expandKey key _ (by omega), W_expandKey key _ (by omega),
    scheduleWords, scheduleWordsFrom_getD_add 40 4 k _ _ _ _ h, Nat.add_comm 4 k]

end Sys2Proof
end

