-- ==== Sys2Proof/Laws/PerInstr.lean ====
section
/-! SUPPORT. Statements about every command as syntax, one lemma per constructor. -/

namespace Sys2Proof.Laws.EncodedFields

open Sys2Proof

/-- R90 to R92: the command word's three fields are the opcode, the round operand and zero. -/
abbrev Statement (i : Instr) : Prop :=
  opField (encode i) = opcode i ∧ rndField (encode i) = roundOperandField i ∧
    zeroField (encode i) = 0#20

theorem kexp : Statement .kexp := by decide
theorem ark (r : BitVec 4) : Statement (.ark r) := by revert r; decide
theorem subb : Statement .subb := by decide
theorem isubb : Statement .isubb := by decide
theorem shrow : Statement .shrow := by decide
theorem ishrow : Statement .ishrow := by decide
theorem mixc : Statement .mixc := by decide
theorem imixc : Statement .imixc := by decide
theorem encb : Statement .encb := by decide
theorem decb : Statement .decb := by decide
theorem ecbd : Statement .ecbd := by decide
theorem zeroize : Statement .zeroize := by decide
theorem clrerr : Statement .clrerr := by decide

end Sys2Proof.Laws.EncodedFields
end

