-- ==== Sys2Proof/Laws/Registers.lean ====
section
/-! SUPPORT. The register map: an offset and the register it names (spec/10_state.md R33, R34). -/

namespace Sys2Proof.Machine

open Sys2Proof

/-- R33: word `k` of the block holds register `r` exactly when `r` stands at offset `4 * k`. -/
theorem regOfWord_offset {k : Nat} {r : Reg} (h : regOfWord k = some r) : r.offset = 4 * k := by
  unfold regOfWord at h
  repeat' split at h
  all_goals first
    | (injection h with h; subst h; simp [Reg.offset]; omega)
    | exact absurd h (by simp)

/-- The only accesses with a meaning: 32 bits wide, at a multiple of 4, at a named offset (R34). -/
theorem accessedReg_ok {bits : Nat} {off : BitVec 8} {r : Reg} (h : accessedReg bits off = .ok r) :
    bits = 32 ∧ off.toNat = r.offset := by
  unfold accessedReg at h
  split at h
  · exact absurd h (by simp)
  split at h
  · exact absurd h (by simp)
  · split at h
    · rename_i h1 h2 r' h3
      injection h with h
      subst h
      exact ⟨by omega, by rw [regOfWord_offset h3]; omega⟩
    · exact absurd h (by simp)

end Sys2Proof.Machine
end

