-- ==== Sys2Proof/Laws/Step.lean ====
section
/-! SUPPORT. What a step can do: the host is idle, or the step is its next operation, and what each host
operation that answers a next state leaves. -/

namespace Sys2Proof.Machine

open Sys2Proof

theorem step_idle {s : State} (h : s.script = []) : step s = .next s := by simp [step, h]

theorem step_next_op {s : State} {op : HostOp} {rest : List HostOp} (h : s.script = op :: rest) :
    step s = performOp op (s.withScript rest) := by simp [step, h]

/-- Every step that answers is idle or performs the head of the script. -/
theorem step_cases {s t : State} (h : step s = .next t) :
    (s.script = [] ∧ t = s) ∨
    ∃ op rest, s.script = op :: rest ∧ performOp op (s.withScript rest) = .next t := by
  unfold step at h
  split at h
  · rename_i hs; injection h with h; exact .inl ⟨hs, h.symm⟩
  · rename_i op rest hs; exact .inr ⟨op, rest, hs, h⟩

/-- The word performed at CMD: a command, or the illegal command (R31, R96). -/
theorem performWord_cases (w : Word) (s : State) :
    (∃ i, decode w = .ok i ∧ performWord w s = exec i s) ∨
    (∃ e, decode w = .error e ∧ performWord w s = .next (s.recordFault .illcmd)) := by
  cases h : decode w with
  | ok i => exact .inl ⟨i, rfl, by simp [performWord, h]⟩
  | error e => exact .inr ⟨e, rfl, by simp [performWord, h, execIllegal]⟩

/-- What each host operation that answers leaves (R246). -/
theorem performOp_cases {op : HostOp} {s t : State} (h : performOp op s = .next t) :
    (∃ w, performWord w s = .next t) ∨ t = s ∨
    (∃ v, t = s.setSrc v ∨ t = s.setDst v ∨ t = s.setLen v) ∨
    (∃ i v, t = s.writeKeyWord i v ∨ t = s.writeBlkWord i v) ∨
    (∃ r, t = s.record r) ∨
    (∃ a bs, a + bs.length ≤ s.memSize ∧ t = s.setMem (s.mem.writeBytes a bs)) ∨
    t = s.resetRegisters := by
  cases op with
  | writeReg bits off v =>
    simp only [performOp, hostWriteReg] at h
    split at h
    · rename_i r hr
      clear hr
      cases r <;> simp only [writeReg, Host.Outcome.next.injEq] at h
      case cmd => exact .inl ⟨v, h⟩
      all_goals subst h
      case status => exact .inr (.inl rfl)
      case src => exact .inr (.inr (.inl ⟨v, .inl rfl⟩))
      case dst => exact .inr (.inr (.inl ⟨v, .inr (.inl rfl)⟩))
      case len => exact .inr (.inr (.inl ⟨v, .inr (.inr rfl)⟩))
      case key i => exact .inr (.inr (.inr (.inl ⟨i, v, .inl rfl⟩)))
      case blk i => exact .inr (.inr (.inr (.inl ⟨i, v, .inr rfl⟩)))
      case rkw i => exact .inr (.inl rfl)
    · exact absurd h (by simp)
  | readReg bits off =>
    simp only [performOp, hostReadReg] at h
    split at h
    · injection h with h; exact .inr (.inr (.inr (.inr (.inl ⟨_, h.symm⟩))))
    · exact absurd h (by simp)
  | writeMem a bs =>
    simp only [performOp, hostWriteMem] at h
    split at h
    · rename_i hb
      injection h with h
      exact .inr (.inr (.inr (.inr (.inr (.inl ⟨a, bs, hb, h.symm⟩)))))
    · exact absurd h (by simp)
  | readMem a n =>
    simp only [performOp, hostReadMem] at h
    split at h
    · injection h with h; exact .inr (.inr (.inr (.inr (.inl ⟨_, h.symm⟩))))
    · exact absurd h (by simp)
  | reset =>
    injection h with h
    exact .inr (.inr (.inr (.inr (.inr (.inr h.symm)))))

end Sys2Proof.Machine
end

