-- ==== Sys2Proof/Laws/Run.lean ====
section
/-! SUPPORT. What a run can do, step by step: the script shortens by its head, MEMSIZE stays, and steps
compose. -/

namespace Sys2Proof.Machine

open Sys2Proof

/-- A host operation that answers leaves the rest of the script and MEMSIZE as they are. -/
theorem performOp_keeps {op : HostOp} {s t : State} (h : performOp op s = .next t) :
    t.script = s.script ∧ t.memSize = s.memSize := by
  have command : ∀ i, exec i s = .next t → t.script = s.script ∧ t.memSize = s.memSize := by
    intro i h
    by_cases hw : i.wellFormed = true
    · rcases exec_cases hw h with
        ⟨c, -, rfl⟩ | ⟨-, rfl⟩ | ⟨-, rfl⟩ | ⟨-, rfl⟩ | ⟨b, rfl⟩ | ⟨m, b, -, rfl⟩ <;> simp
    · rw [exec_of_not_wellFormed hw] at h; cases h; simp
  rcases performOp_cases h with
    ⟨w, h⟩ | rfl | ⟨v, rfl | rfl | rfl⟩ | ⟨i, v, rfl | rfl⟩ | ⟨r, rfl⟩ | ⟨a, bs, -, rfl⟩ | rfl
  · rcases performWord_cases w s with ⟨i, -, e⟩ | ⟨_, -, e⟩
    · exact command i (e ▸ h)
    · rw [e] at h; cases h; simp
  all_goals simp

/-- A step that answers takes one operation from the script. -/
theorem step_keeps {s t : State} (h : step s = .next t) :
    t.script = s.script.tail ∧ t.memSize = s.memSize := by
  rcases step_cases h with ⟨hs, rfl⟩ | ⟨op, rest, hs, h⟩
  · simp [hs]
  · obtain ⟨h1, h2⟩ := performOp_keeps h
    rw [hs]
    exact ⟨h1, h2⟩

@[simp] theorem stepTimes_zero (s : State) : stepTimes 0 s = .next s := rfl

/-- One step first, then the others. -/
theorem stepTimes_succ {s t : State} (h : step s = .next t) (n : Nat) :
    stepTimes (n + 1) s = stepTimes n t := by simp [stepTimes, h]

/-- Steps compose. -/
theorem stepTimes_add {s u : State} {k : Nat} (h : stepTimes k s = .next u) (n : Nat) :
    stepTimes (k + n) s = stepTimes n u := by
  induction k generalizing s with
  | zero => cases h; simp
  | succ k ih =>
    rw [show k + 1 + n = (k + n) + 1 by omega]
    cases hs : step s with
    | next t => rw [stepTimes_succ hs] at h ⊢; exact ih h
    | fault r => simp [stepTimes, hs] at h
    | refused r => simp [stepTimes, hs] at h

/-- After `k` steps the first `k` operations are performed, and MEMSIZE is as it was. -/
theorem stepTimes_keeps {s u : State} {k : Nat} (h : stepTimes k s = .next u) :
    u.script = s.script.drop k ∧ u.memSize = s.memSize := by
  induction k generalizing s with
  | zero => cases h; simp
  | succ k ih =>
    cases hs : step s with
    | next t =>
      rw [stepTimes_succ hs] at h
      obtain ⟨h1, h2⟩ := ih h
      obtain ⟨h3, h4⟩ := step_keeps hs
      rw [h1, h2, h3, h4, List.tail_drop.symm]
      simp
    | fault r => simp [stepTimes, hs] at h
    | refused r => simp [stepTimes, hs] at h

end Sys2Proof.Machine
end

