-- ==== Sys2Proof/Machine/Assembler.lean ====
section
/-! DEFINITION. The written form of a host script (spec/30_encoding.md R98, R99): one line of text to one
`ScriptLine`. Numbers are hexadecimal with `0x` or decimal without; `hexbytes` is an even number of
hexadecimal digits, first byte first; `;` starts a comment; mnemonics are upper case. -/

namespace Sys2Proof.Machine

open Sys2Proof

/-- The value of a decimal digit. -/
def decDigit (c : Char) : Option Nat :=
  if 48 ≤ c.toNat ∧ c.toNat ≤ 57 then some (c.toNat - 48) else none

/-- The value of a hexadecimal digit, of either case. -/
def hexDigit (c : Char) : Option Nat :=
  if 48 ≤ c.toNat ∧ c.toNat ≤ 57 then some (c.toNat - 48)
  else if 65 ≤ c.toNat ∧ c.toNat ≤ 70 then some (c.toNat - 55)
  else if 97 ≤ c.toNat ∧ c.toNat ≤ 102 then some (c.toNat - 87)
  else none

/-- Digits in base `base`, the first most significant, after the number `acc`. -/
def digitsFrom (base : Nat) (digit : Char → Option Nat) : Nat → List Char → Option Nat
  | acc, [] => some acc
  | acc, c :: cs => match digit c with
    | some d => digitsFrom base digit (acc * base + d) cs
    | none => none

/-- A number (R98): `0x` and hexadecimal digits, or decimal digits; at least one digit. -/
def parseNumber : List Char → Option Nat
  | [] => none
  | '0' :: 'x' :: [] => none
  | '0' :: 'x' :: ds => digitsFrom 16 hexDigit 0 ds
  | ds => digitsFrom 10 decDigit 0 ds

/-- A number that is a 32-bit value. -/
def parseWord (t : List Char) : Option Word :=
  (parseNumber t).bind fun n => if n < 2 ^ 32 then some (BitVec.ofNat 32 n) else none

/-- `hexbytes` (R98): an even number of digits. No digits give no bytes here, though a written line cannot
hold them (DESIGN CHOICE, log entry 18, safe). -/
def parseBytes : List Char → Option (List Byte)
  | [] => some []
  | [_] => none
  | h :: l :: rest => match hexDigit h, hexDigit l, parseBytes rest with
    | some a, some b, some bs => some (BitVec.ofNat 8 (16 * a + b) :: bs)
    | _, _, _ => none

/-- A block as 32 hexadecimal digits, b[0] first (spec/00_scope.md R11). -/
def parseBlock (t : List Char) : Option Block :=
  (parseBytes t).bind fun bs => if bs.length = 16 then some (Block.ofBytes bs) else none

/-- The decimal number, below `n`, in the name of a register. R33 lists the names without leading zeros; here
`KEY00` reads as KEY0 and `RKW007` as RKW7 (DESIGN CHOICE, log entry 19, safe). -/
def parseIndex (n : Nat) (t : List Char) : Option (Fin n) :=
  match t with
  | [] => none
  | t => (digitsFrom 10 decDigit 0 t).bind fun k => if h : k < n then some ⟨k, h⟩ else none

/-- A register name of spec/10_state.md R33. -/
def parseReg : List Char → Option Reg
  | ['C', 'M', 'D'] => some .cmd
  | ['S', 'T', 'A', 'T', 'U', 'S'] => some .status
  | ['S', 'R', 'C'] => some .src
  | ['D', 'S', 'T'] => some .dst
  | ['L', 'E', 'N'] => some .len
  | 'K' :: 'E' :: 'Y' :: t => (parseIndex 4 t).map .key
  | 'B' :: 'L' :: 'K' :: t => (parseIndex 4 t).map .blk
  | 'R' :: 'K' :: 'W' :: t => (parseIndex 44 t).map .rkw
  | _ => none

/-- The format-N mnemonics of R94. -/
def parseMnemonic (t : List Char) : Option Instr :=
  if t = "KEXP".toList then some .kexp
  else if t = "SUBB".toList then some .subb
  else if t = "ISUBB".toList then some .isubb
  else if t = "SHROW".toList then some .shrow
  else if t = "ISHROW".toList then some .ishrow
  else if t = "MIXC".toList then some .mixc
  else if t = "IMIXC".toList then some .imixc
  else if t = "ENCB".toList then some .encb
  else if t = "DECB".toList then some .decb
  else if t = "ECBD".toList then some .ecbd
  else if t = "ZEROIZE".toList then some .zeroize
  else if t = "CLRERR".toList then some .clrerr
  else none

/-- ARK's operand (R98): a number 0 to 10; a larger one is rejected. -/
def parseArk (t : List Char) : Option Instr :=
  (parseNumber t).bind fun n => if n ≤ 10 then some (.ark (BitVec.ofNat 4 n)) else none

/-- The text before a comment. -/
def beforeComment : List Char → List Char
  | [] => []
  | c :: cs => if c = ';' then [] else c :: beforeComment cs

/-- The words of a line, split at spaces and commas; `acc` is the word being read, reversed. -/
def wordsFrom : List Char → List Char → List (List Char)
  | acc, [] => if acc = [] then [] else [acc.reverse]
  | acc, c :: cs =>
    if c = ' ' ∨ c = ',' then
      if acc = [] then wordsFrom [] cs else acc.reverse :: wordsFrom [] cs
    else wordsFrom (c :: acc) cs

/-- A line of one word. -/
def parseLine1 (t : List Char) : Option ScriptLine :=
  if t = "RESET".toList then some .reset
  else if t = "RDBLK".toList then some (.rdblk none)
  else if t = "ENCB.SEQ".toList then some .encbSeq
  else if t = "DECB.SEQ".toList then some .decbSeq
  else (parseMnemonic t).map .command

/-- A line of two words. -/
def parseLine2 (t a : List Char) : Option ScriptLine :=
  if t = "ARK".toList then (parseArk a).map .command
  else if t = "RD".toList then (parseReg a).map fun r => .rd r none
  else if t = "LDKEY".toList then (parseBlock a).map .ldkey
  else if t = "SETKEY".toList then (parseBlock a).map .setkey
  else if t = "LDBLK".toList then (parseBlock a).map .ldblk
  else none

/-- A line of three words. -/
def parseLine3 (t a b : List Char) : Option ScriptLine :=
  if t = "WR".toList then
    (parseReg a).bind fun r => (parseWord b).map fun v => .wr r v
  else if t = "WM".toList then
    (parseNumber a).bind fun n => (parseBytes b).map fun bs => .wm n bs
  else if t = "RM".toList then
    (parseNumber a).bind fun n => (parseNumber b).map fun k => .rm n k none
  else if t = "RDBLK".toList ∧ a = "==".toList then
    (parseBlock b).map fun k => .rdblk (some k)
  else none

/-- A line of four words. -/
def parseLine4 (t a b c : List Char) : Option ScriptLine :=
  if t = "RD".toList ∧ b = "==".toList then
    (parseReg a).bind fun r => (parseWord c).map fun v => .rd r (some v)
  else if t = "ECBDEC".toList then
    (parseWord a).bind fun s => (parseWord b).bind fun d => (parseWord c).map fun n => .ecbdec s d n
  else none

/-- A line of five words. -/
def parseLine5 (t a b c d : List Char) : Option ScriptLine :=
  if t = "RM".toList ∧ c = "==".toList then
    (parseNumber a).bind fun n => (parseNumber b).bind fun k =>
      (parseBytes d).map fun bs => .rm n k (some bs)
  else none

/-- One line of text: `none` if it is rejected, no line of script if it is blank or a comment. An empty word
vanishes in the splitting, so `WM addr,` and `RM addr, 0 ==`, whose `hexbytes` have no digits, are rejected
(DESIGN CHOICE, log entry 18, safe). -/
def parseLine (text : List Char) : Option (List ScriptLine) :=
  match wordsFrom [] (beforeComment text) with
  | [] => some []
  | [t] => (parseLine1 t).map fun l => [l]
  | [t, a] => (parseLine2 t a).map fun l => [l]
  | [t, a, b] => (parseLine3 t a b).map fun l => [l]
  | [t, a, b, c] => (parseLine4 t a b c).map fun l => [l]
  | [t, a, b, c, d] => (parseLine5 t a b c d).map fun l => [l]
  | _ => none

/-- A host script, line by line. -/
def parseScript : List (List Char) → Option (List ScriptLine)
  | [] => some []
  | t :: ts => match parseLine t, parseScript ts with
    | some l, some ls => some (l ++ ls)
    | _, _ => none

end Sys2Proof.Machine
end

