-- ==== Sys2Proof/Tests/Slice0.lean ====
section
/-! SUPPORT. Tests with expected values from spec/, and a witness for every statement with hypotheses. -/

namespace Sys2Proof.Tests

open Sys2Proof Sys2Proof.Machine

/-- An engine just after power-on, MEMSIZE = 4096 as in spec/95_test_vectors.md. -/
def fresh : State := State.powerOn 4096

/-- `fresh` with BLK set. -/
def withBlk (b : Block) : State := { fresh with blk := b }

/-- `fresh` with KEY and its expansion, and BLK. -/
def keyed (k b : Block) : State := { fresh with key := k, rk := some (expandKey k), blk := b }

/-- `fresh` with a schedule of zero round keys. -/
def zeroKeys : Schedule := Schedule.ofFn fun _ => Block.zero

/-- `fresh` with that schedule and the three ECB registers. -/
def ecbState (src dst len : Word) : State :=
  { fresh with rk := some zeroKeys, src := src, dst := dst, len := len }

/-- `fresh` with one host operation to perform. -/
def doing (op : HostOp) : State := fresh.hostNext op

/-- What is seen of the next state, if there is one. -/
def seen {α : Type} (f : State → α) (r : Result) : Option α :=
  match r with
  | .next t => some (f t)
  | .fault _ => none
  | .refused _ => none

/-- The key 2b7e151628aed2a6abf7158809cf4f3c of spec/95_test_vectors.md. -/
def keyA : Block := Block.ofWords 0x2B7E1516#32 0x28AED2A6#32 0xABF71588#32 0x09CF4F3C#32

/-- The block 3243f6a8885a308d313198a2e0370734. -/
def blockA : Block := Block.ofWords 0x3243F6A8#32 0x885A308D#32 0x313198A2#32 0xE0370734#32

/-- The block 3925841d02dc09fbdc118597196a0b32. -/
def cipherA : Block := Block.ofWords 0x3925841D#32 0x02DC09FB#32 0xDC118597#32 0x196A0B32#32

/-- The block 000102030405060708090a0b0c0d0e0f. -/
def blockB : Block := Block.ofWords 0x00010203#32 0x04050607#32 0x08090A0B#32 0x0C0D0E0F#32

/-! ## WellFormed: ill-formed terms are refused (R92) -/

theorem test_ark_11_ill_formed : (Instr.ark 11#4).wellFormed = false := by decide
theorem test_ark_15_ill_formed : (Instr.ark 15#4).wellFormed = false := by decide
theorem test_ark_10_well_formed : (Instr.ark 10#4).wellFormed = true := by decide
theorem test_assembler_rejects_ark_11 : assemble (.ark 11#4) = none := by decide

/-! ## Decoding: words written out from R90 to R92, `zero` (20 bits), `rnd` (4 bits), `op` (8 bits) -/

theorem test_decode_kexp : decode (0#20 ++ 0b0000#4 ++ 0b00000001#8) = .ok .kexp := by decide
theorem test_decode_ark : decode (0#20 ++ 0b0111#4 ++ 0b00000010#8) = .ok (.ark 7#4) := by decide
theorem test_decode_subb : decode (0#20 ++ 0b0000#4 ++ 0b00000011#8) = .ok .subb := by decide
theorem test_decode_isubb : decode (0#20 ++ 0b0000#4 ++ 0b00000100#8) = .ok .isubb := by decide
theorem test_decode_shrow : decode (0#20 ++ 0b0000#4 ++ 0b00000101#8) = .ok .shrow := by decide
theorem test_decode_ishrow : decode (0#20 ++ 0b0000#4 ++ 0b00000110#8) = .ok .ishrow := by decide
theorem test_decode_mixc : decode (0#20 ++ 0b0000#4 ++ 0b00000111#8) = .ok .mixc := by decide
theorem test_decode_imixc : decode (0#20 ++ 0b0000#4 ++ 0b00001000#8) = .ok .imixc := by decide
theorem test_decode_encb : decode (0#20 ++ 0b0000#4 ++ 0b00001001#8) = .ok .encb := by decide
theorem test_decode_decb : decode (0#20 ++ 0b0000#4 ++ 0b00001010#8) = .ok .decb := by decide
theorem test_decode_ecbd : decode (0#20 ++ 0b0000#4 ++ 0b00001011#8) = .ok .ecbd := by decide
theorem test_decode_zeroize : decode (0#20 ++ 0b0000#4 ++ 0b00001110#8) = .ok .zeroize := by decide
theorem test_decode_clrerr : decode (0#20 ++ 0b0000#4 ++ 0b00001111#8) = .ok .clrerr := by decide

/-- R96: unassigned opcodes 0x00, 0x0C, 0x0D, 0x10 and 0xFF. -/
theorem test_decode_unassigned :
    [0x00000000#32, 0x0000000C#32, 0x0000000D#32, 0x00000010#32, 0x000000FF#32].map decode =
      List.replicate 5 (.error .unassignedOpcode) := by decide

/-- R96, R202: the other illegal words of the two rules. -/
theorem test_decode_illegal :
    [0x00000B02#32, 0x00000103#32, 0x0000010B#32, 0x00001001#32, 0x80000001#32, 0xFFFFFFFF#32].map
      decode = [.error .roundIndexAboveTen, .error .roundFieldNotZero, .error .roundFieldNotZero,
        .error .nonZeroHighBits, .error .nonZeroHighBits, .error .nonZeroHighBits] := by decide

theorem test_table_word_ark : decodeTableWord 32 0x402 = some (.ark 4#4) := by decide

/-! ## Arithmetic (spec/95_test_vectors.md section 2) -/

theorem test_xtime : [0x57#8, 0xAE#8, 0x80#8, 0xFF#8].map xtime = [0xAE#8, 0x47#8, 0x1B#8, 0xE5#8] := by
  decide
theorem test_gmul : gmul 0x57#8 0x83#8 = 0xC1#8 ∧ gmul 0x57#8 0x13#8 = 0xFE#8 ∧
    gmul 0xFF#8 0xFF#8 = 0x13#8 ∧ gmul 0x80#8 0x02#8 = 0x1B#8 := by decide
theorem test_rconW : rconW 1 = 0x01000000#32 ∧ rconW 9 = 0x1B000000#32 ∧
    rconW 10 = 0x36000000#32 := by decide
theorem test_sbox : S 0x53#8 = 0xED#8 ∧ S 0xFF#8 = 0x16#8 ∧ IS 0xED#8 = 0x53#8 ∧
    IS 0x00#8 = 0x52#8 := by decide
theorem test_word_functions : rotWord 0x09CF4F3C#32 = 0xCF4F3C09#32 ∧
    subWord 0xCF4F3C09#32 = 0x8A84EB01#32 := by decide

/-! ## One command each (spec/95_test_vectors.md sections 3 to 5) -/

theorem test_kexp_words :
    seen (fun t => [0, 4, 11, 43].map fun i => t.readReg (.rkw i)) (exec .kexp (keyed keyA blockA)) =
      some [0x2B7E1516#32, 0xA0FAFE17#32, 0x7359F67F#32, 0xB6630CA6#32] := by decide +kernel

/-- ERR = 1, CAUSE = 3, KVALID = 0: KEXP gives STATUS 0x33. -/
theorem test_kexp_status : seen State.statusWord
    (exec .kexp { fresh with err := true, cause := .length }) = some 0x33#32 := by decide +kernel

theorem test_ark_0 : seen State.blk (exec (.ark 0#4) (keyed keyA blockA)) =
    some (Block.ofWords 0x193DE3BE#32 0xA0F4E22B#32 0x9AC68D2A#32 0xE9F84808#32) := by decide +kernel

theorem test_ark_nokey : seen (fun t => (t.blk, t.statusWord)) (exec (.ark 10#4) (withBlk blockB)) =
    some (blockB, 0x22#32) := by decide

theorem test_subb : seen State.blk (exec .subb (withBlk blockB)) =
    some (Block.ofWords 0x637C777B#32 0xF26B6FC5#32 0x3001672B#32 0xFED7AB76#32) := by decide

theorem test_isubb : seen State.blk (exec .isubb (withBlk blockB)) =
    some (Block.ofWords 0x52096AD5#32 0x3036A538#32 0xBF40A39E#32 0x81F3D7FB#32) := by decide

theorem test_shrow : seen State.blk (exec .shrow (withBlk blockB)) =
    some (Block.ofWords 0x00050A0F#32 0x04090E03#32 0x080D0207#32 0x0C01060B#32) := by decide

theorem test_ishrow : seen State.blk (exec .ishrow (withBlk blockB)) =
    some (Block.ofWords 0x000D0A07#32 0x04010E0B#32 0x0805020F#32 0x0C090603#32) := by decide

/-- The columns db 13 53 45, f2 0a 22 5c, d4 d4 d4 d5 and 2d 26 31 4c. -/
theorem test_mixc : seen State.blk (exec .mixc
    (withBlk (Block.ofWords 0xDB135345#32 0xF20A225C#32 0xD4D4D4D5#32 0x2D26314C#32))) =
    some (Block.ofWords 0x8E4DA1BC#32 0x9FDC589D#32 0xD5D5D7D6#32 0x4D7EBDF8#32) := by decide

theorem test_imixc : seen State.blk (exec .imixc
    (withBlk (Block.ofWords 0xDB135345#32 0xF20A225C#32 0xD4D4D4D5#32 0x2D26314C#32))) =
    some (Block.ofWords 0x32A41D55#32 0xAEC36982#32 0xDDD9DFDA#32 0xA05050D6#32) := by decide

theorem test_encb : seen State.blk (exec .encb (keyed keyA blockA)) = some cipherA := by decide +kernel

theorem test_decb : seen State.blk (exec .decb (keyed keyA cipherA)) = some blockA := by decide +kernel

/-- The ciphertext block of the example of R192, under the key "YELLOW SUBMARINE". -/
def ecbCipher : Block := Block.ofWords 0xA25CB298#32 0x8380C634#32 0xE517EF2C#32 0xB95FDE6E#32

/-- The example of R192: M[0x100..0x10F] holds the block; SRC = 0x100, DST = 0x200, LEN = 0x10. -/
def ecbExample : State :=
  { keyed (Block.ofWords 0x59454C4C#32 0x4F572053#32 0x55424D41#32 0x52494E45#32) Block.zero with
    mem := Memory.writeBlock [] 0x100 ecbCipher, src := 0x100#32, dst := 0x200#32, len := 0x10#32 }

theorem test_ecbd : seen (fun t => (t.mem.readBlock 0x200, t.blk, t.statusWord)) (exec .ecbd ecbExample) =
    some (Block.ofWords 0x41455331#32 0x32384520#32 0x45434220#32 0x54455354#32,
      Block.ofWords 0x41455331#32 0x32384520#32 0x45434220#32 0x54455354#32, 1#32) := by decide +kernel

/-- The rows of spec/95_test_vectors.md section 5 that fault: LENGTH, BOUNDS five times, OVERLAP thrice. -/
theorem test_ecbd_faults :
    [ecbState 0x100#32 0x200#32 0x11#32, ecbState 0xFF1#32 0x200#32 0x10#32,
     ecbState 0x100#32 0xFF1#32 0x10#32, ecbState 0xFFFFFFF8#32 0#32 0x10#32,
     ecbState 0x100#32 0x200#32 0xFFFFFFF0#32, ecbState 0#32 0x800#32 0x810#32,
     ecbState 0#32 0x7F0#32 0x800#32, ecbState 0x100#32 0x100#32 0x10#32,
     ecbState 0x110#32 0x100#32 0x20#32].map (fun s => seen State.statusWord (exec .ecbd s)) =
    [some 0x33#32, some 0x43#32, some 0x43#32, some 0x43#32, some 0x43#32, some 0x43#32,
     some 0x53#32, some 0x53#32, some 0x53#32] := by decide

/-- Any state then ZEROIZE gives STATUS 0 and zero registers; M is as before. -/
theorem test_zeroize : seen (fun t => (t.statusWord, t.key, t.blk, t.src, t.mem.lookup 7))
    (exec .zeroize { ecbState 1#32 2#32 3#32 with key := keyA, blk := blockA, err := true,
                                                  cause := .bounds, mem := [(7, 9#8)] }) =
    some (0#32, Block.zero, Block.zero, 0#32, some 9#8) := by decide

/-- STATUS = 0x33 then CLRERR gives STATUS = 1. -/
theorem test_clrerr : seen State.statusWord
    (exec .clrerr { ecbState 0#32 0#32 0#32 with err := true, cause := .length }) = some 1#32 := by decide

/-! ## Steps: host operations -/

theorem test_step_illegal_word : seen State.statusWord (step (doing (commandWrite 0x0000000C#32))) =
    some 0x12#32 := by decide

/-- ILLCMD, not NOKEY, for ARK with rnd = 11; NOKEY for ARK 10. -/
theorem test_step_ark_11_and_10 :
    [0x00000B02#32, 0x00000A02#32].map (fun w => seen State.statusWord (step (doing (commandWrite w)))) =
      [some 0x12#32, some 0x22#32] := by decide

theorem test_step_fetch_word : step (State.reset.withFetchWord 32 0x3) =
    exec .subb State.reset := rfl

/-- R22: KEY3 written with the value it holds clears KVALID and keeps KEY. -/
theorem test_step_key_write : seen (fun t => (t.statusWord, t.key, t.readReg (.rkw 0)))
    (step ((keyed keyA blockA).hostNext (.writeReg 32 0x2C#8 0x09CF4F3C#32))) =
    some (0#32, keyA, 0#32) := by decide

/-- R33, R34: 0x14 and 0xF0 are reserved, 0xEC is RKW43, 0x22 is misaligned, 8 bits are no word. -/
theorem test_register_map :
    [accessedReg 32 0x14#8, accessedReg 32 0xF0#8, accessedReg 32 0xEC#8, accessedReg 32 0x22#8,
      accessedReg 8 0x20#8].map (fun r => match r with
        | .ok r => (some r, (none : Option Refusal))
        | .error e => (none, some e)) =
    [(none, some (.reservedOffset 0x14#8)), (none, some (.reservedOffset 0xF0#8)),
     (some (.rkw 43), none), (none, some (.misalignedOffset 0x22#8)),
     (none, some (.accessNotWord 8))] := by decide

/-- R66: the last byte of M can be written, the one after it cannot. -/
theorem test_step_write_mem :
    seen (fun t => (t.mem.lookup 0xFFE, t.mem.lookup 0xFFF)) (step (doing (.writeMem 0xFFE [1#8, 2#8]))) =
      some (some 1#8, some 2#8) ∧
    step (doing (.writeMem 0xFFF [1#8, 2#8])) = .refused (.outsideMemory 0xFFF 2) := ⟨by decide, rfl⟩

/-- R98, R99: three lines of text as the host operations they stand for. -/
theorem test_assembler :
    (((parseScript ["LDBLK 3243f6a8885a308d313198a2e0370734".toList, "ARK 0x0A ; key 10".toList,
      "WM 0x100, 0aFF".toList]).bind scriptOps)) =
    some [.writeReg 32 0x30#8 0x3243F6A8#32, .writeReg 32 0x34#8 0x885A308D#32,
      .writeReg 32 0x38#8 0x313198A2#32, .writeReg 32 0x3C#8 0xE0370734#32,
      .writeReg 32 0x00#8 0x00000A02#32, .writeMem 0x100 [0x0A#8, 0xFF#8]] := by decide +kernel

/-- Every constructor's mnemonic is written as in R94, and `ARK 11` is rejected. -/
theorem test_assembler_mnemonics :
    (["KEXP", "SUBB", "ISUBB", "SHROW", "ISHROW", "MIXC", "IMIXC", "ENCB", "DECB", "ECBD", "ZEROIZE",
      "CLRERR"].map fun t => parseMnemonic t.toList) =
    [some .kexp, some .subb, some .isubb, some .shrow, some .ishrow, some .mixc, some .imixc, some .encb,
      some .decb, some .ecbd, some .zeroize, some .clrerr] ∧
    parseLine "ARK 11".toList = none := by decide +kernel

/-- Log entries 18 and 19, the model's choices: `hexbytes` of no digits, names with leading zeros. -/
theorem test_assembler_choices :
    ["WM 0x100,".toList, "RM 0x100, 0 ==".toList].map parseLine = [none, none] ∧
    ["KEY00".toList, "RKW007".toList, "KEY4".toList].map parseReg =
      [some (.key 0), some (.rkw 7), none] := by decide +kernel

/-! ## Runs (R247), with the faults of program P2 of spec/95_test_vectors.md -/

/-- A fault that the script predicts, cleared, and predicted cleared: the points at which it is expected. -/
def faultExpected : List ScriptLine :=
  [.command (.ark 0#4), .rd .status (some 0x22#32), .command .clrerr, .rd .status (some 0#32)]

theorem test_expected_points : expectedPoints faultExpected = [true, true, true, false, false] := by decide

theorem test_run_with_expected_fault : fresh.scriptGoneWrong faultExpected = some false := by decide

/-- The same fault, which no prediction of the script expects: CLRERR does not hide it. -/
theorem test_run_with_unexpected_fault :
    fresh.scriptGoneWrong [.command (.ark 0#4), .command .clrerr, .rd .status (some 0#32)] = some true := by
  decide

/-- An operation that a model refuses, after one that it performs. -/
theorem test_run_with_refused_operation :
    fresh.scriptGoneWrong [.wr .src 5#32, .rm 4096 1 none] = some true := by decide

/-! ## Witnesses: the hypotheses of each statement can be met -/

theorem witness_DecodeOfEncode : (Instr.ark 0#4).wellFormed = true ∧ (Instr.ark 10#4).wellFormed = true ∧
    Instr.clrerr.wellFormed = true := by decide

theorem witness_EncodeOfDecode : decode 0x00000A02#32 = .ok (.ark 10#4) := by decide

/-- One word for each clause, at the boundary of its range. -/
theorem witness_DecodingFollowsItsClauses :
    (0x1000#32).toNat / 4096 ≠ 0 ∧
    ((0xA02#32).toNat / 4096 = 0 ∧ (0xA02#32).toNat % 256 = 2 ∧ (0xA02#32).toNat / 256 % 16 ≤ 10) ∧
    ((0xB02#32).toNat / 4096 = 0 ∧ (0xB02#32).toNat % 256 = 2 ∧ 10 < (0xB02#32).toNat / 256 % 16) ∧
    ((0x101#32).toNat / 4096 = 0 ∧ (0x101#32).toNat % 256 ≠ 2 ∧ (0x101#32).toNat / 256 % 16 ≠ 0) ∧
    ((0x0F#32).toNat / 4096 = 0 ∧ (0x0F#32).toNat / 256 % 16 = 0 ∧ (0x0F#32).toNat % 256 = 0x0F) ∧
    ((0x10#32).toNat / 4096 = 0 ∧ (0x10#32).toNat / 256 % 16 = 0 ∧ (0x10#32).toNat % 256 ∉
      [0x01, 0x02, 0x03, 0x04, 0x05, 0x06, 0x07, 0x08, 0x09, 0x0A, 0x0B, 0x0E, 0x0F]) := by decide

theorem witness_StepRunsDecodedCommand :
    (doing (commandWrite 0x3#32)).script = [.writeReg 32 0x00#8 0x3#32] ∧
    decode 0x3#32 = .ok .subb := by decide

theorem witness_StepFaultsOnIllegalWord :
    (doing (commandWrite 0xC#32)).script = [.writeReg 32 0x00#8 0xC#32] ∧
    decode 0xC#32 = .error .unassignedOpcode := by decide

theorem witness_IdleStepChangesNothing : fresh.script = [] := by decide

/-- A meaningless operation of each kind, and beside it one that has a meaning. -/
theorem witness_StepRefusesExactlyMeaninglessOps :
    [HostOp.writeReg 16 0x20#8 0#32, .readReg 32 0x01#8, .readReg 32 0xF0#8, .writeMem 4096 [0#8],
      .readMem 4095 2].map (HostOp.meaningless 4096) = List.replicate 5 true ∧
    [HostOp.writeReg 32 0x20#8 0#32, .readReg 32 0x04#8, .readReg 32 0xEC#8, .writeMem 4095 [0#8],
      .readMem 4095 1].map (HostOp.meaningless 4096) = List.replicate 5 false := by decide

theorem witness_RegisterMapRoundTrip : accessedReg 32 0x00#8 = .ok .cmd ∧
    accessedReg 32 0xEC#8 = .ok (.rkw 43) := by decide

theorem witness_DoublingReducesByElevenB : 128 ≤ (0x80#8).toNat ∧ ¬ 128 ≤ (0x7F#8).toNat := by decide

theorem witness_SBoxIsAffineOfInverse : (0x00#8 : Byte) = 0#8 ∧ (0x53#8 : Byte) ≠ 0#8 ∧
    gmul 0x53#8 0xCA#8 = 1#8 := by decide

/-- R151 at its two forms of word. -/
theorem witness_KexpStoresTheSchedule : (4 ≤ 4 ∧ 4 < 44 ∧ 4 % 4 = 0) ∧ (4 ≤ 43 ∧ 43 < 44 ∧ 43 % 4 ≠ 0) := by
  decide

theorem witness_KexpReadsBackItsKey : ∃ t, exec .kexp fresh = .next t := ⟨_, rfl⟩

theorem witness_ArkAddsTheRoundKey : (ecbState 0#32 0#32 0#32).rk = some zeroKeys ∧
    (0#4).toNat ≤ 10 ∧ (10#4).toNat ≤ 10 := by decide

theorem witness_ArkAboveTenIsIllegal : 10 < (11#4).toNat ∧ 10 < (15#4).toNat := by decide

theorem witness_EncbEqualsItsSequence : (ecbState 0#32 0#32 0#32).rk = some zeroKeys := by decide

theorem witness_DecbEqualsItsSequence : (ecbState 0#32 0#32 0#32).rk = some zeroKeys := by decide

theorem witness_EncbSequenceWithoutKey : fresh.rk = none ∧ fresh.err = false ∧
    ({ fresh with err := true, cause := .illcmd } : State).err = true := by decide

theorem witness_EncryptDecryptRoundTrip : (ecbState 0#32 0#32 0#32).rk = some zeroKeys := by decide

/-- The hypotheses of the ECBD statement, for the state `ecbState src dst n`. -/
def ecbRuns (src dst n : Word) : Bool :=
  decide (n.toNat % 16 = 0 ∧ (0 < n.toNat → src.toNat + n.toNat ≤ 4096 ∧ dst.toNat + n.toNat ≤ 4096 ∧
    (src.toNat + n.toNat ≤ dst.toNat ∨ dst.toNat + n.toNat ≤ src.toNat)))

/-- No bytes at all; adjacent ranges both ways; ranges that end at the last byte of M; the largest
transfer (spec/95_test_vectors.md section 5). -/
theorem witness_EcbdDecryptsTheRange : (ecbState 0x110#32 0x120#32 0x10#32).rk = some zeroKeys ∧
    ecbRuns 0xFFFFFFFF#32 0xFFFFFFFF#32 0#32 = true ∧ ecbRuns 0x110#32 0x120#32 0x10#32 = true ∧
    ecbRuns 0x110#32 0x100#32 0x10#32 = true ∧ ecbRuns 0xFF0#32 0x200#32 0x10#32 = true ∧
    ecbRuns 0#32 0x800#32 0x800#32 = true := by decide

theorem witness_EcbDecryptIsBlockwise : (List.replicate 15 (0#8 : Byte)).length % 16 ≠ 0 ∧
    (List.replicate 32 (0#8 : Byte)).length % 16 = 0 ∧
    0 < (List.replicate 16 (0#8 : Byte)).length / 16 ∧
    1 < (List.replicate 32 (0#8 : Byte)).length / 16 := by decide

theorem witness_EcbdOfNothingChangesNothing : (ecbState 5#32 6#32 0#32).rk = some zeroKeys ∧
    (ecbState 5#32 6#32 0#32).len = 0#32 := by decide

/-- One state for each of the four checks: no key; LEN 15; a range one byte past MEMSIZE; the last byte of
the source is the first of the destination. Then LEN = 0, and ranges that touch and share no byte. -/
theorem witness_EcbdFaultsInOrder :
    fresh.rk = none ∧
    ((ecbState 0#32 0x100#32 15#32).rk ≠ none ∧ (ecbState 0#32 0x100#32 15#32).len.toNat % 16 ≠ 0) ∧
    ((ecbState 0xFF1#32 0#32 16#32).rk ≠ none ∧ 16 % 16 = 0 ∧ 4096 < (0xFF1#32).toNat + 16) ∧
    ((ecbState 0xF#32 0x1E#32 16#32).rk ≠ none ∧ ¬ (4096 < 0xF + 16 ∨ 4096 < 0x1E + 16) ∧
      0xF < 0x1E + 16 ∧ 0x1E < 0xF + 16) ∧
    ((ecbState 0xFFFFFFFF#32 0#32 0#32).rk ≠ none ∧ (ecbState 0xFFFFFFFF#32 0#32 0#32).len.toNat = 0) ∧
    ((ecbState 0xF#32 0x1F#32 16#32).rk ≠ none ∧ ¬ (4096 < 0xF + 16 ∨ 4096 < 0x1F + 16) ∧
      ¬ (0xF < 0x1F + 16 ∧ 0x1F < 0xF + 16)) := by decide

theorem witness_NoScheduleRaisesNokey : fresh.rk = none ∧ (10#4).toNat ≤ 10 := by decide

/-- ENCB without a schedule from ERR = 0. -/
theorem witness_FaultsArePreciseAndTabulated : Instr.encb.wellFormed = true ∧ fresh.err = false ∧
    exec .encb fresh = .next (fresh.recordFault .nokey) ∧
    (fresh.recordFault .nokey).err = true := ⟨rfl, rfl, rfl, rfl⟩

theorem witness_FirstCauseIsKept : ({ fresh with err := true, cause := .illcmd } : State).err = true ∧
    Instr.encb ≠ .clrerr ∧ Instr.encb ≠ .zeroize ∧
    ∃ t, exec .encb { fresh with err := true, cause := .illcmd } = .next t :=
  ⟨rfl, by decide, by decide, _, rfl⟩

theorem witness_CommandsWriteOnlyTheirOwn : exec .subb fresh = .next (fresh.setBlk (subBytes fresh.blk)) ∧
    Instr.subb ≠ .zeroize ∧ Instr.subb ≠ .kexp ∧ Instr.subb ≠ .ecbd :=
  ⟨rfl, by decide, by decide, by decide⟩

theorem witness_CommandsReadOnlyTheirOwn : Instr.encb ≠ .kexp ∧ Instr.encb ≠ .ecbd ∧
    (∀ r, Instr.mixc ≠ .ark r) ∧ Instr.mixc ≠ .encb ∧ Instr.mixc ≠ .decb ∧ Instr.mixc ≠ .ecbd := by decide

theorem witness_EveryRunEnds :
    ∀ op ∈ (doing (commandWrite 0xFFFFFFFF#32)).script, op.meaningless 4096 = false := by decide

/-- ERR = 1 after the first of two operations, at a point where it is not expected; a refused operation. -/
theorem witness_RunGoesWrongExactly :
    stepTimes 1 (doing (commandWrite 0xC#32)) = .next (fresh.recordFault .illcmd) ∧
    (fresh.recordFault .illcmd).err = true ∧ [false, false].getD 1 false = false ∧
    (HostOp.readMem 4096 1).meaningless 4096 = true := ⟨rfl, rfl, rfl, by decide⟩

/-- A fault, then an operation that does not clear it. -/
theorem witness_RunHidesNothing :
    let s := (doing (.readReg 32 0x04#8)).hostNext (commandWrite 0xC#32)
    (∃ u, stepTimes 1 s = .next u ∧ u.err = true) ∧ (∃ t, s.run = .next t) ∧ 1 ≤ s.script.length ∧
    (∀ op ∈ s.script.drop 1, op ≠ .reset ∧ op ≠ .writeReg 32 0x00#8 0x0000000E#32 ∧
      op ≠ .writeReg 32 0x00#8 0x0000000F#32) ∧
    (HostOp.readMem 4096 1).meaningless fresh.memSize = true :=
  ⟨⟨_, rfl, rfl⟩, ⟨_, rfl⟩, by decide, by decide, by decide⟩

theorem witness_MemSizeNeverChanges : step fresh = .next fresh := rfl

/-- A state that lists bytes of M and holds a recorded fault. -/
theorem witness_StepKeepsTheInvariant :
    let s : State := { fresh with mem := [(0, 1#8), (4095, 2#8)], err := true, cause := .overlap }
    s.Inv ∧ step s = .next s := by
  refine ⟨⟨⟨?_, ?_, ?_⟩, ?_, ?_⟩, rfl⟩ <;>
    simp [fresh, State.powerOn, State.ScheduleOk, State.FaultOk]
  omega

/-- The offsets KEY3, BLK0, RKW0 and RKW43 as the statements about host operations write them. -/
theorem witness_RegisterOffsets :
    (doing (.writeReg 32 0x2C#8 1#32)).script = [.writeReg 32 (BitVec.ofNat 8 (0x20 + 4 * 3)) 1#32] ∧
    (doing (.writeReg 32 0x30#8 1#32)).script = [.writeReg 32 (BitVec.ofNat 8 (0x30 + 4 * 0)) 1#32] ∧
    (doing (.readReg 32 0x40#8)).script = [.readReg 32 (BitVec.ofNat 8 (0x40 + 4 * 0))] ∧
    (doing (.readReg 32 0xEC#8)).script = [.readReg 32 (BitVec.ofNat 8 (0x40 + 4 * 43))] := by decide

theorem witness_KeyWriteClearsKvalid :
    (doing (.writeReg 32 0x20#8 7#32)).script = [.writeReg 32 (BitVec.ofNat 8 (0x20 + 4 * 0)) 7#32] := by decide

theorem witness_BlkWriteStoresOneColumn :
    (doing (.writeReg 32 0x3C#8 7#32)).script = [.writeReg 32 (BitVec.ofNat 8 (0x30 + 4 * 3)) 7#32] := by decide

theorem witness_BufferRegisterWrites :
    (doing (.writeReg 32 0x08#8 7#32)).script = [.writeReg 32 0x08#8 7#32] ∧
    (doing (.writeReg 32 0x0C#8 7#32)).script = [.writeReg 32 0x0C#8 7#32] ∧
    (doing (.writeReg 32 0x10#8 7#32)).script = [.writeReg 32 0x10#8 7#32] := by decide

theorem witness_StatusRegister :
    (doing (.readReg 32 0x04#8)).script = [.readReg 32 0x04#8] ∧
    (doing (.writeReg 32 0x04#8 7#32)).script = [.writeReg 32 0x04#8 7#32] := by decide

/-- A read and a write of RKW43, without a schedule and with one. -/
theorem witness_ScheduleWindow :
    (doing (.readReg 32 0xEC#8)).script = [.readReg 32 (BitVec.ofNat 8 (0x40 + 4 * (43 : Fin 44).val))] ∧
    (doing (.writeReg 32 0xEC#8 7#32)).script =
      [.writeReg 32 (BitVec.ofNat 8 (0x40 + 4 * (43 : Fin 44).val)) 7#32] ∧
    fresh.kvalid = false ∧ (ecbState 0#32 0#32 0#32).rk = some zeroKeys := by decide

theorem witness_DataRegisterReads :
    (doing (.readReg 32 0x00#8)).script = [.readReg 32 (BitVec.ofNat 8 0x00)] ∧
    (doing (.readReg 32 0x2C#8)).script = [.readReg 32 (BitVec.ofNat 8 (0x20 + 4 * (3 : Fin 4).val))] ∧
    (doing (.readReg 32 0x30#8)).script = [.readReg 32 (BitVec.ofNat 8 (0x30 + 4 * (0 : Fin 4).val))] := by
  decide

/-- The last byte of M, and no byte at its end. -/
theorem witness_HostWriteStoresItsBytes :
    (doing (.writeMem 4095 [1#8])).script = [.writeMem 4095 [1#8]] ∧
    4095 + [(1#8 : Byte)].length ≤ fresh.memSize ∧ 4096 + ([] : List Byte).length ≤ fresh.memSize := by decide

theorem witness_HostReadReturnsTheBytes :
    (doing (.readMem 4095 1)).script = [.readMem 4095 1] ∧ 4095 + 1 ≤ fresh.memSize ∧
    4096 + 0 ≤ fresh.memSize := by decide

theorem witness_ResetKeepsMemory : (doing .reset).script = [.reset] := by decide

end Sys2Proof.Tests
end

section
/-! PROOFS. The statements of spec/00_scope.md. -/

namespace Sys2Proof.Machine

/-- Settles O46: what a step keeps (`step_keeps`) includes MEMSIZE (R6, R8). -/
theorem memSizeNeverChanges : Obligations.MemSizeNeverChanges := by
  intro s t h
  obtain ⟨-, hsize⟩ := step_keeps h
  exact hsize

end Sys2Proof.Machine
end

section
/-! PROOFS. The statements of spec/10_state.md: first what commands, register accesses and refusals do, said
once, then the statements. -/

namespace Sys2Proof

/-- R12: a word of a block is its four bytes, the first in the most significant place. -/
theorem Block.word_eq_bytes (b : Block) (i : Fin 4) :
    b.word i = b.byte (Fin.ofNat 16 (4 * i.val)) ++ b.byte (Fin.ofNat 16 (4 * i.val + 1)) ++
      b.byte (Fin.ofNat 16 (4 * i.val + 2)) ++ b.byte (Fin.ofNat 16 (4 * i.val + 3)) := by
  fin_cases i <;> rfl

/-- R27: schedule word `i` is word `i mod 4` of round key `i div 4`. -/
theorem Schedule.word_eq_get (K : Schedule) (i : Fin 44) :
    K.word i = (K.get (Fin.ofNat 11 (i.val / 4))).word (Fin.ofNat 4 (i.val % 4)) := by
  have hr : Fin.ofNat 11 (i.val / 4) = ⟨i.val / 4, by omega⟩ := Fin.ext (Nat.mod_eq_of_lt (by omega))
  have hk : Fin.ofNat 4 (i.val % 4) = ⟨i.val % 4, by omega⟩ := Fin.ext (Nat.mod_eq_of_lt (by omega))
  rw [hr, hk, Schedule.word]

/-- The commands that use the stored schedule (R28). -/
def Instr.usesSchedule : Instr → Bool
  | .ark _ | .encb | .decb | .ecbd => true
  | _ => false

theorem Instr.usesSchedule_iff (i : Instr) :
    i.usesSchedule = true ↔ (∃ r, i = .ark r) ∨ i = .encb ∨ i = .decb ∨ i = .ecbd := by
  cases i <;> simp [usesSchedule]

end Sys2Proof

namespace Sys2Proof.Machine

/-! ## What a command can do -/

/-- R211, R212: no command raises the cause 0, which stands for no fault. -/
@[simp] theorem mayRaise_none (i : Instr) : mayRaise i .none = false := by
  cases i <;> rfl

/-- What any term of `Instr` can do: the cases of `exec_cases`, the ill-formed ARK among the faults. -/
theorem exec_next_cases {i : Instr} {s t : State} (h : exec i s = .next t) :
    (∃ c, c ≠ Cause.none ∧ t = s.recordFault c) ∨
    (i = .kexp ∧ t = s.setSchedule (expandKey s.key)) ∨
    (i = .zeroize ∧ t = s.resetRegisters) ∨
    (i = .clrerr ∧ t = s.clearFault) ∨
    (∃ b, t = s.setBlk b) ∨
    (∃ m b, i = .ecbd ∧ t = (s.setMem m).setBlk b) := by
  by_cases hw : i.wellFormed = true
  · rcases exec_cases hw h with ⟨c, hc, ht⟩ | h
    · refine .inl ⟨c, ?_, ht⟩
      rintro rfl
      simp at hc
    · exact .inr h
  · rw [exec_of_not_wellFormed hw] at h
    cases h
    exact .inl ⟨.illcmd, by decide, rfl⟩

/-! ## Commands from two related states

A relation between states that the writes of the commands keep is kept by every command whose operands agree. -/

/-- The relation implies the same BLK and is kept when both states take the same write. -/
structure KeptByWrites (R : State → State → Prop) : Prop where
  blk_eq : ∀ {s s'}, R s s' → s'.blk = s.blk
  setBlk : ∀ {s s'}, R s s' → ∀ b, R (s.setBlk b) (s'.setBlk b)
  setSchedule : ∀ {s s'}, R s s' → ∀ K, R (s.setSchedule K) (s'.setSchedule K)
  recordFault : ∀ {s s'}, R s s' → ∀ c, R (s.recordFault c) (s'.recordFault c)
  clearFault : ∀ {s s'}, R s s' → R s.clearFault s'.clearFault
  resetRegisters : ∀ {s s'}, R s s' → R s.resetRegisters s'.resetRegisters

/-- Both results are next states, and the two are related. -/
def BothNext (R : State → State → Prop) (x x' : Result) : Prop :=
  ∃ t t', x = .next t ∧ x' = .next t' ∧ R t t'

theorem bothNext_next {R : State → State → Prop} {t t' : State} (h : R t t') :
    BothNext R (.next t) (.next t') := ⟨t, t', rfl, rfl, h⟩

section

variable {R : State → State → Prop} {s s' : State}

theorem bothNext_applyToBlk (hR : KeptByWrites R) (h : R s s') (f : Block → Block) :
    BothNext R (applyToBlk f s) (applyToBlk f s') := by
  rw [applyToBlk_eq, applyToBlk_eq, hR.blk_eq h]
  exact bothNext_next (hR.setBlk h _)

/-- From related states with the same schedule both commands record NOKEY, or both go on. -/
theorem bothNext_withSchedule (hR : KeptByWrites R) (h : R s s') (hrk : s'.rk = s.rk)
    {k k' : Schedule → Result} (hk : ∀ K, BothNext R (k K) (k' K)) :
    BothNext R (withSchedule s k) (withSchedule s' k') := by
  cases hs : s.rk with
  | none =>
    rw [withSchedule_none hs, withSchedule_none (hrk.trans hs)]
    exact bothNext_next (hR.recordFault h _)
  | some K =>
    rw [withSchedule_some hs, withSchedule_some (hrk.trans hs)]
    exact hk K

/-- ECBD from related states: the same check fails in both, or both loops run (R191, R192). -/
theorem bothNext_execEcbd (hR : KeptByWrites R) (h : R s s') (hrk : s'.rk = s.rk)
    (hlen : s'.ecbLen = s.ecbLen) (hlength : s'.ecbLengthBad = s.ecbLengthBad)
    (hbounds : s'.ecbOutOfBounds = s.ecbOutOfBounds) (hoverlap : s'.ecbOverlap = s.ecbOverlap)
    (hloop : ∀ f n, R (ecbLoop f n 0 s) (ecbLoop f n 0 s')) :
    BothNext R (execEcbd s) (execEcbd s') := by
  refine bothNext_withSchedule hR h hrk fun K => ?_
  rw [hlength, hbounds, hoverlap, hlen]
  split
  · exact bothNext_next (hR.recordFault h _)
  split
  · exact bothNext_next (hR.recordFault h _)
  split
  · exact bothNext_next (hR.recordFault h _)
  · exact bothNext_next (hloop _ _)

/-- Every command keeps the relation, given what it reads beside BLK: the schedule for the four commands that
use it, KEY for KEXP, and the ranges and M for ECBD. -/
theorem bothNext_exec (hR : KeptByWrites R) (h : R s s') {i : Instr}
    (hrk : i.usesSchedule = true → s'.rk = s.rk)
    (hkey : i = .kexp → s'.key = s.key)
    (hecbd : i = .ecbd → BothNext R (execEcbd s) (execEcbd s')) :
    BothNext R (exec i s) (exec i s') := by
  cases i with
  | kexp =>
    simp only [exec, execKexp, hkey rfl]
    exact bothNext_next (hR.setSchedule h _)
  | ark r =>
    simp only [exec, execArk]
    split
    · exact bothNext_next (hR.recordFault h _)
    · exact bothNext_withSchedule hR h (hrk rfl) fun K => bothNext_applyToBlk hR h _
  | encb => exact bothNext_withSchedule hR h (hrk rfl) fun K => bothNext_applyToBlk hR h _
  | decb => exact bothNext_withSchedule hR h (hrk rfl) fun K => bothNext_applyToBlk hR h _
  | ecbd => exact hecbd rfl
  | zeroize => exact bothNext_next (hR.resetRegisters h)
  | clrerr => exact bothNext_next (hR.clearFault h)
  | subb => exact bothNext_applyToBlk hR h _
  | isubb => exact bothNext_applyToBlk hR h _
  | shrow => exact bothNext_applyToBlk hR h _
  | ishrow => exact bothNext_applyToBlk hR h _
  | mixc => exact bothNext_applyToBlk hR h _
  | imixc => exact bothNext_applyToBlk hR h _

end

/-- The two states differ at most in ERR and CAUSE. -/
def DifferInFault (s s' : State) : Prop := s' = { s with err := s'.err, cause := s'.cause }

/-- The two states differ at most in KEY. -/
def DifferInKey (s s' : State) : Prop := s' = { s with key := s'.key }

/-- The two states differ at most in RK. -/
def DifferInRk (s s' : State) : Prop := s' = { s with rk := s'.rk }

/-- The two states differ at most in SRC, DST, LEN and M. -/
def DifferInBuffer (s s' : State) : Prop :=
  s' = { s with src := s'.src, dst := s'.dst, len := s'.len, mem := s'.mem }

/-! Once `s'` is written as an update of `s`, each field of `KeptByWrites` holds by unfolding its record update. -/

theorem keptByWrites_differInFault : KeptByWrites DifferInFault := by
  constructor <;> intro s s' h <;> rw [DifferInFault] at h <;> rw [h] <;> intros <;> rfl

theorem keptByWrites_differInKey : KeptByWrites DifferInKey := by
  constructor <;> intro s s' h <;> rw [DifferInKey] at h <;> rw [h] <;> intros <;> rfl

theorem keptByWrites_differInRk : KeptByWrites DifferInRk := by
  constructor <;> intro s s' h <;> rw [DifferInRk] at h <;> rw [h] <;> intros <;> rfl

theorem keptByWrites_differInBuffer : KeptByWrites DifferInBuffer := by
  constructor <;> intro s s' h <;> rw [DifferInBuffer] at h <;> rw [h] <;> intros <;> rfl

/-- R29: ERR and CAUSE are read by no command. -/
theorem bothNext_exec_withFault (i : Instr) (s : State) (e : Bool) (c : Cause) :
    BothNext DifferInFault (exec i s) (exec i { s with err := e, cause := c }) := by
  have hR := keptByWrites_differInFault
  have h : DifferInFault s { s with err := e, cause := c } := rfl
  refine bothNext_exec hR h (fun _ => rfl) (fun _ => rfl) fun _ => ?_
  refine bothNext_execEcbd hR h rfl rfl rfl rfl rfl fun f n => ?_
  rw [ecbLoop_withFault f n 0 s e c]
  rfl

/-- R21: KEY is read by KEXP only. -/
theorem bothNext_exec_withKey {i : Instr} (hi : i ≠ .kexp) (s : State) (k : Block) :
    BothNext DifferInKey (exec i s) (exec i { s with key := k }) := by
  have hR := keptByWrites_differInKey
  have h : DifferInKey s { s with key := k } := rfl
  refine bothNext_exec hR h (fun _ => rfl) (fun hk => absurd hk hi) fun _ => ?_
  refine bothNext_execEcbd hR h rfl rfl rfl rfl rfl fun f n => ?_
  rw [ecbLoop_withKey f n 0 s k]
  rfl

/-- R26, R28: RK is read only by the four commands that use the schedule. -/
theorem bothNext_exec_withRk {i : Instr} (hi : i.usesSchedule ≠ true) (s : State) (K : Option Schedule) :
    BothNext DifferInRk (exec i s) (exec i { s with rk := K }) := by
  have h : DifferInRk s { s with rk := K } := rfl
  refine bothNext_exec keptByWrites_differInRk h (fun hk => absurd hk hi) (fun _ => rfl) ?_
  rintro rfl
  exact absurd rfl hi

/-- R24, R38: SRC, DST, LEN and M are read by ECBD only. -/
theorem bothNext_exec_withBuffer {i : Instr} (hi : i ≠ .ecbd) (s : State) (a b c : Word) (m : Memory) :
    BothNext DifferInBuffer (exec i s) (exec i { s with src := a, dst := b, len := c, mem := m }) := by
  have h : DifferInBuffer s { s with src := a, dst := b, len := c, mem := m } := rfl
  exact bothNext_exec keptByWrites_differInBuffer h (fun _ => rfl) (fun _ => rfl)
    fun hk => absurd hk hi

/-- R216: every command completes, from every state. -/
theorem exec_completes (i : Instr) (s : State) : ∃ t, exec i s = .next t := by
  obtain ⟨t, -, h, -⟩ := bothNext_exec_withFault i s s.err s.cause
  exact ⟨t, h⟩

/-! ## Register accesses and refusals -/

/-- R33: the 32-bit access at a register's offset names that register. -/
theorem accessedReg_offset (r : Reg) : accessedReg 32 (BitVec.ofNat 8 r.offset) = .ok r := by
  cases r with
  | key i => revert i; decide
  | blk i => revert i; decide
  | rkw i => revert i; decide
  | _ => rfl

/-- R33: of the 64 words of the block, exactly those at the reserved offsets hold no register. -/
theorem regOfWord_eq_none_iff {k : Nat} (h : k < 64) :
    regOfWord k = none ↔ 4 * k ∈ reservedOffsets := by
  revert k
  decide

/-- R34: exactly the meaningless register accesses are refused. -/
theorem accessedReg_error_iff (bits : Nat) (off : BitVec 8) :
    (∃ e, accessedReg bits off = .error e) ↔ meaninglessAccess bits off = true := by
  unfold accessedReg
  simp only [meaninglessAccess, decide_eq_true_eq]
  split
  · simp [*]
  split
  · simp [*]
  · have hk : off.toNat / 4 < 64 := by omega
    have hoff : 4 * (off.toNat / 4) = off.toNat := by omega
    have hnone := regOfWord_eq_none_iff hk
    rw [hoff] at hnone
    cases hr : regOfWord (off.toNat / 4) <;> simp_all

/-- A host register write of a register's offset writes that register (R246). -/
theorem step_writeReg {s : State} {r : Reg} {v : Word} {rest : List HostOp}
    (h : s.script = .writeReg 32 (BitVec.ofNat 8 r.offset) v :: rest) :
    step s = writeReg r v (s.withScript rest) := by
  rw [step_next_op h, performOp, hostWriteReg, accessedReg_offset]

/-- A host read at a register's offset returns what the register reads and changes nothing (R246). -/
theorem step_readReg {s : State} {r : Reg} {rest : List HostOp}
    (h : s.script = .readReg 32 (BitVec.ofNat 8 r.offset) :: rest) :
    step s = .next { s with script := rest, returned := s.returned ++ [.word (s.readReg r)] } := by
  rw [step_next_op h, performOp, hostReadReg, accessedReg_offset]
  cases r <;> rfl

/-- R32: the fields of STATUS, as arithmetic on its word. -/
theorem toNat_statusWord (s : State) :
    s.statusWord.toNat = 16 * s.cause.code.toNat + 2 * s.err.toNat + s.kvalid.toNat := by
  unfold State.statusWord
  cases s.cause <;> cases s.err <;> cases s.kvalid <;> rfl

/-- A write to CMD completes, whatever the word (R216). -/
theorem performWord_completes (w : Word) (s : State) : ∃ t, performWord w s = .next t := by
  rcases performWord_cases w s with ⟨i, -, h⟩ | ⟨_, -, h⟩
  · rw [h]; exact exec_completes i s
  · exact ⟨_, h⟩

/-- A write of a named register completes (R216). -/
theorem writeReg_completes (r : Reg) (v : Word) (s : State) : ∃ t, writeReg r v s = .next t := by
  cases r with
  | cmd => exact performWord_completes v s
  | _ => exact ⟨_, rfl⟩

/-- R34, R66: exactly the meaningless operations are refused. -/
theorem performOp_refused_iff (op : HostOp) (s : State) :
    (∃ r, performOp op s = .refused r) ↔ op.meaningless s.memSize = true := by
  cases op with
  | writeReg bits off v =>
    simp only [HostOp.meaningless, ← accessedReg_error_iff, performOp, hostWriteReg]
    cases accessedReg bits off with
    | ok r => obtain ⟨t, ht⟩ := writeReg_completes r v s; simp [ht]
    | error e => simp
  | readReg bits off =>
    simp only [HostOp.meaningless, ← accessedReg_error_iff, performOp, hostReadReg]
    cases accessedReg bits off <;> simp
  | writeMem a bs =>
    simp only [HostOp.meaningless, performOp, hostWriteMem, decide_eq_true_eq]
    split <;> simp <;> omega
  | readMem a n =>
    simp only [HostOp.meaningless, performOp, hostReadMem, decide_eq_true_eq]
    split <;> simp <;> omega
  | reset => simp [HostOp.meaningless, performOp, hostReset]

/-! ## The invariant -/

/-- R191, R192: ECBD keeps M canonical and inside MEMSIZE, its bounds check coming before its first write. -/
theorem memOk_execEcbd {s t : State} (hm : s.MemOk) (h : execEcbd s = .next t) : t.MemOk := by
  rcases execEcbd_cases h with
    ⟨-, rfl⟩ | ⟨K, -, ⟨-, rfl⟩ | ⟨-, -, rfl⟩ | ⟨-, -, -, rfl⟩ | ⟨-, hbounds, -, rfl⟩⟩
  · exact hm
  · exact hm
  · exact hm
  · exact hm
  · obtain ⟨hwf, hinside, hsize⟩ := hm
    obtain ⟨m, b, hl⟩ := ecbLoop_eq (fun c => decrypt c K) (s.ecbLen / 16) 0 s
    have hsame : (ecbLoop (fun c => decrypt c K) (s.ecbLen / 16) 0 s).memSize = s.memSize := by
      rw [hl, State.setBlk_memSize, State.setMem_memSize]
    have hin : (ecbLoop (fun c => decrypt c K) (s.ecbLen / 16) 0 s).mem.inside s.memSize := by
      rcases Nat.eq_zero_or_pos s.ecbLen with h0 | hpos
      · rw [h0]; exact hinside
      · simp only [State.ecbOutOfBounds, decide_eq_false_iff_not] at hbounds
        exact inside_ecbLoop _ _ _ _ hinside (by omega)
    exact ⟨wf_ecbLoop _ _ _ _ hwf, hsame ▸ hin, hsame ▸ hsize⟩

/-- Every command keeps the invariant. -/
theorem inv_exec {i : Instr} {s t : State} (hs : s.Inv) (h : exec i s = .next t) : t.Inv := by
  obtain ⟨hm, hk, hf⟩ := hs
  rcases exec_next_cases h with
    ⟨c, hc, rfl⟩ | ⟨-, rfl⟩ | ⟨-, rfl⟩ | ⟨-, rfl⟩ | ⟨b, rfl⟩ | ⟨m, b, rfl, rfl⟩
  · exact ⟨hm, hk, faultOk_recordFault hf hc⟩
  · exact ⟨hm, .inr rfl, hf⟩
  · exact ⟨hm, .inl rfl, iff_of_true rfl rfl⟩
  · exact ⟨hm, hk, iff_of_true rfl rfl⟩
  · exact ⟨hm, hk, hf⟩
  · exact ⟨memOk_execEcbd hm h, hk, hf⟩

/-- A word written to CMD keeps the invariant, an illegal one too. -/
theorem inv_performWord {w : Word} {s t : State} (hs : s.Inv) (h : performWord w s = .next t) :
    t.Inv := by
  rcases performWord_cases w s with ⟨i, -, e⟩ | ⟨_, -, e⟩
  · exact inv_exec hs (e ▸ h)
  · rw [e] at h
    cases h
    obtain ⟨hm, hk, hf⟩ := hs
    exact ⟨hm, hk, faultOk_recordFault hf (by decide)⟩

/-- Every host operation that has a meaning keeps the invariant. -/
theorem inv_performOp {op : HostOp} {s t : State} (hs : s.Inv) (h : performOp op s = .next t) :
    t.Inv := by
  rcases performOp_cases h with
    ⟨w, h⟩ | rfl | ⟨v, rfl | rfl | rfl⟩ | ⟨i, v, rfl | rfl⟩ | ⟨r, rfl⟩ | ⟨a, bs, hb, rfl⟩ | rfl
  · exact inv_performWord hs h
  all_goals obtain ⟨hm, hk, hf⟩ := hs
  · exact ⟨hm, hk, hf⟩
  · exact ⟨hm, hk, hf⟩
  · exact ⟨hm, hk, hf⟩
  · exact ⟨hm, hk, hf⟩
  · exact ⟨hm, .inl rfl, hf⟩
  · exact ⟨hm, hk, hf⟩
  · exact ⟨hm, hk, hf⟩
  · obtain ⟨hwf, hinside, hsize⟩ := hm
    exact ⟨⟨Memory.wf_writeBytes a bs hwf, Memory.inside_writeBytes hinside hb, hsize⟩, hk, hf⟩
  · exact ⟨hm, .inl rfl, iff_of_true rfl rfl⟩

/-- Settles O47: a step is idle or performs an operation, which keeps the invariant. -/
theorem stepKeepsTheInvariant : Obligations.StepKeepsTheInvariant := by
  intro s t hs h
  rcases step_cases h with ⟨-, rfl⟩ | ⟨op, rest, -, h⟩
  · exact hs
  · exact inv_performOp (s := s.withScript rest) hs h

/-- Settles O10: an idle step is not refused, and any other is refused as its operation is; `Fault` is empty. -/
theorem stepRefusesExactlyMeaninglessOps : Obligations.StepRefusesExactlyMeaninglessOps := by
  intro s
  refine ⟨?_, fun r => nomatch r⟩
  cases hs : s.script with
  | nil => simp [step_idle hs]
  | cons op rest =>
    have h := performOp_refused_iff op (s.withScript rest)
    rw [← step_next_op hs, State.withScript_memSize] at h
    rw [h]
    constructor
    · exact fun hop => ⟨op, rest, rfl, hop⟩
    · rintro ⟨_, _, ⟨⟩, hop⟩
      exact hop

/-- Settles O12: each direction is a lemma about `accessedReg`. -/
theorem registerMapRoundTrip : Obligations.RegisterMapRoundTrip := by
  refine ⟨accessedReg_offset, fun off r h => ?_⟩
  obtain ⟨-, hoff⟩ := accessedReg_ok h
  exact hoff

/-- Settles O41: the relation `DifferInFault` is kept by every command. -/
theorem errAndCauseInfluenceNothing : Obligations.ErrAndCauseInfluenceNothing :=
  bothNext_exec_withFault

/-- Settles O42: of the cases of a command only a fault touches ERR and CAUSE, and it keeps the first cause. -/
theorem firstCauseIsKept : Obligations.FirstCauseIsKept := by
  intro i s t he hclr hzero h
  rcases exec_next_cases h with
    ⟨c, -, rfl⟩ | ⟨-, rfl⟩ | ⟨rfl, -⟩ | ⟨rfl, -⟩ | ⟨b, rfl⟩ | ⟨m, b, -, rfl⟩
  · simp [he]
  · exact ⟨he, rfl⟩
  · exact absurd rfl hzero
  · exact absurd rfl hclr
  · exact ⟨he, rfl⟩
  · exact ⟨he, rfl⟩

/-- Settles O43: read off from the cases of a command. -/
theorem commandsWriteOnlyTheirOwn : Obligations.CommandsWriteOnlyTheirOwn := by
  intro i s t h
  rcases exec_next_cases h with
    ⟨c, -, rfl⟩ | ⟨rfl, rfl⟩ | ⟨rfl, rfl⟩ | ⟨rfl, rfl⟩ | ⟨b, rfl⟩ | ⟨m, b, rfl, rfl⟩ <;> simp

/-- Settles O44: the relations `DifferInKey`, `DifferInRk` and `DifferInBuffer`, each kept by every command that
does not read the element. -/
theorem commandsReadOnlyTheirOwn : Obligations.CommandsReadOnlyTheirOwn := by
  intro i s
  refine ⟨fun hi => bothNext_exec_withKey hi s, fun hark hencb hdecb hecbd => ?_,
    fun hi => bothNext_exec_withBuffer hi s⟩
  refine bothNext_exec_withRk ?_ s
  rw [ne_eq, Instr.usesSchedule_iff]
  rintro (⟨r, hr⟩ | hi | hi | hi)
  · exact hark r hr
  · exact hencb hi
  · exact hdecb hi
  · exact hecbd hi

/-- Settles O54: a read of RKWi returns `rkwRead`, and `writeReg` ignores a write. -/
theorem scheduleWindow : Obligations.ScheduleWindow := by
  intro s i v rest
  refine ⟨fun h => ⟨_, step_readReg (r := .rkw i) h, fun hk => ?_, fun K hK => ?_⟩,
    fun h => step_writeReg (r := .rkw i) h⟩
  · have hrk : s.rk = none := by simpa [State.kvalid] using hk
    simp [State.readReg, State.rkwRead, hrk]
  · simp [State.readReg, State.rkwRead, hK, Schedule.word_eq_get]

/-- Settles O7: the write to CMD is `performWord`, which runs the decoded command. -/
theorem stepRunsDecodedCommand : Obligations.StepRunsDecodedCommand := by
  intro s w i rest h hw
  rw [step_writeReg (r := .cmd) h, writeReg, performWord, hw, State.withScript]

/-- Settles O48: M is empty, RK absent and no fault recorded at reset; MEMSIZE by its bound (R6). -/
theorem resetMeetsTheInvariant : Obligations.ResetMeetsTheInvariant := by
  refine ⟨⟨List.Pairwise.nil, ?_, Config.memSize_le⟩, .inl rfl, iff_of_true rfl rfl⟩
  intro c hc
  cases hc

/-- Settles O49: the reset values are those of `State.powerOn`. -/
theorem resetValues : Obligations.ResetValues :=
  ⟨Block.byte_zero, Block.byte_zero, rfl, rfl, rfl, rfl, rfl, rfl, rfl, rfl, fun _ => rfl⟩

/-- Settles O50: the write is `State.writeKeyWord`, whose bytes `Block.byte_setWord` gives. -/
theorem keyWriteClearsKvalid : Obligations.KeyWriteClearsKvalid := by
  intro s i v rest h
  refine ⟨_, step_writeReg (r := .key i) h, rfl, rfl, fun j => Block.byte_setWord _ _ _ _, ?_⟩
  simp [State.UnchangedExcept]

/-- Settles O51: the write is `State.writeBlkWord`, whose bytes `Block.byte_setWord` gives. -/
theorem blkWriteStoresOneColumn : Obligations.BlkWriteStoresOneColumn := by
  intro s i v rest h
  refine ⟨_, step_writeReg (r := .blk i) h, fun j => Block.byte_setWord _ _ _ _, ?_⟩
  simp [State.UnchangedExcept]

/-- Settles O52: the writes are `State.setSrc`, `State.setDst` and `State.setLen`. -/
theorem bufferRegisterWrites : Obligations.BufferRegisterWrites := by
  intro s v rest
  refine ⟨fun h => ⟨_, step_writeReg (r := .src) h, rfl, ?_⟩,
    fun h => ⟨_, step_writeReg (r := .dst) h, rfl, ?_⟩,
    fun h => ⟨_, step_writeReg (r := .len) h, rfl, ?_⟩⟩
  all_goals simp [State.UnchangedExcept]

/-- Settles O53: the read is `statusWord`, whose value `toNat_statusWord` gives. -/
theorem statusRegister : Obligations.StatusRegister := by
  refine ⟨by decide, fun s v rest => ⟨fun h => ?_, fun h => step_writeReg (r := .status) h⟩⟩
  exact ⟨_, step_readReg (r := .status) h, toNat_statusWord s⟩

/-- Settles O55: each read is `State.readReg` of its register. -/
theorem dataRegisterReads : Obligations.DataRegisterReads := by
  intro s rest
  refine ⟨fun i h => ?_, fun i h => ?_, step_readReg (r := .src), step_readReg (r := .dst),
    step_readReg (r := .len), step_readReg (r := .cmd)⟩
  · rw [step_readReg (r := .key i) h, State.readReg, Block.word_eq_bytes]
  · rw [step_readReg (r := .blk i) h, State.readReg, Block.word_eq_bytes]

end Sys2Proof.Machine
end

section
/-! PROOFS. The statements of spec/20_memory.md: the two host accesses to M, inside MEMSIZE. -/

namespace Sys2Proof.Machine

/-- A host write of bytes inside MEMSIZE stores them in M (R63). -/
theorem step_writeMem {s : State} {a : Nat} {bs : List Byte} {rest : List HostOp}
    (h : s.script = .writeMem a bs :: rest) (hin : a + bs.length ≤ s.memSize) :
    step s = .next ((s.withScript rest).setMem (s.mem.writeBytes a bs)) := by
  rw [step_next_op h, performOp, hostWriteMem, State.withScript_memSize, if_pos hin,
    State.withScript_mem]

/-- A host read of bytes inside MEMSIZE records what M reads there and changes nothing (R62). -/
theorem step_readMem {s : State} {a n : Nat} {rest : List HostOp}
    (h : s.script = .readMem a n :: rest) (hin : a + n ≤ s.memSize) :
    step s = .next ((s.withScript rest).record (.bytes (s.mem.readBytes a n))) := by
  rw [step_next_op h, performOp, hostReadMem, State.withScript_memSize, if_pos hin,
    State.withScript_mem]

/-- Settles O56: the write is `Memory.writeBytes`, whose read-back and untouched bytes are the memory's laws. -/
theorem hostWriteStoresItsBytes : Obligations.HostWriteStoresItsBytes := by
  intro s a bs rest h hin
  refine ⟨_, step_writeMem h hin, Memory.readBytes_writeBytes s.mem a bs, fun b hb => ?_, ?_⟩
  · rw [State.setMem_mem, Memory.readByte_writeBytes, if_neg hb]
  · simp [State.UnchangedExcept]

/-- Settles O57: the read is `Memory.readBytes`, whose length and bytes are the memory's laws. -/
theorem hostReadReturnsTheBytes : Obligations.HostReadReturnsTheBytes := by
  intro s a n rest h hin
  refine ⟨s.mem.readBytes a n, step_readMem h hin, Memory.length_readBytes s.mem a n, fun j hj => ?_⟩
  rw [Memory.getD_readBytes, if_pos hj]

end Sys2Proof.Machine
end

section
/-! PROOFS. The statements of spec/30_encoding.md: first the clauses of the decoder, said once, and commands
performed without a schedule, then the statements. -/

namespace Sys2Proof

/-! ## The fields of a word -/

/-- R90: `zero`, as arithmetic on the word. -/
@[simp] theorem toNat_zeroField (w : Word) : (zeroField w).toNat = w.toNat / 4096 := by
  have := w.isLt
  simp only [zeroField, BitVec.extractLsb'_toNat, Nat.shiftRight_eq_div_pow]
  omega

/-- R90: `rnd`, as arithmetic on the word. -/
@[simp] theorem toNat_rndField (w : Word) : (rndField w).toNat = w.toNat / 256 % 16 := by
  simp [rndField, Nat.shiftRight_eq_div_pow]

/-- R90: `op`, as arithmetic on the word. -/
@[simp] theorem toNat_opField (w : Word) : (opField w).toNat = w.toNat % 256 := by
  simp [opField]

/-- R90 to R92: the fields of every command's word. -/
theorem fields_encode (i : Instr) : Laws.EncodedFields.Statement i := by
  cases i with
  | ark r => exact Laws.EncodedFields.ark r
  | _ => decide

/-! ## The clauses of the decoder -/

section

variable {w : Word} {i : Instr}

/-- R95 (1). -/
theorem decode_of_zeroField_ne (hz : zeroField w ≠ 0#20) : decode w = .error .nonZeroHighBits := by
  simp [decode, hz]

/-- R95 (2), a legal round index. -/
theorem decode_of_round (hz : zeroField w = 0#20) (hop : opField w = 0x02#8)
    (hr : (rndField w).toNat ≤ 10) : decode w = .ok (.ark (rndField w)) := by
  rw [decode, if_neg (not_not.mpr hz), if_pos hop, if_pos hr]

/-- R95 (2), a round index above ten. -/
theorem decode_of_round_gt (hz : zeroField w = 0#20) (hop : opField w = 0x02#8)
    (hr : 10 < (rndField w).toNat) : decode w = .error .roundIndexAboveTen := by
  rw [decode, if_neg (not_not.mpr hz), if_pos hop, if_neg (by omega)]

/-- R95 (3). -/
theorem decode_of_rndField_ne (hz : zeroField w = 0#20) (hop : opField w ≠ 0x02#8)
    (hr : rndField w ≠ 0#4) : decode w = .error .roundFieldNotZero := by
  rw [decode, if_neg (not_not.mpr hz), if_neg hop, if_pos hr]

/-- R95 (4). -/
theorem decode_of_formatN (hz : zeroField w = 0#20) (hr : rndField w = 0#4)
    (hi : formatN (opField w) = some i) : decode w = .ok i := by
  have hop : opField w ≠ 0x02#8 := by
    intro h
    rw [h] at hi
    cases hi
  rw [decode, if_neg (not_not.mpr hz), if_neg hop, if_neg (not_not.mpr hr), hi]

/-- R95 (5). -/
theorem decode_of_formatN_none (hz : zeroField w = 0#20) (hop : opField w ≠ 0x02#8)
    (hr : rndField w = 0#4) (hi : formatN (opField w) = none) :
    decode w = .error .unassignedOpcode := by
  rw [decode, if_neg (not_not.mpr hz), if_neg hop, if_neg (not_not.mpr hr), hi]

/-- A word that decodes does so by clause (2) or by clause (4) of R95. -/
theorem decode_ok_cases (h : decode w = .ok i) :
    zeroField w = 0#20 ∧
      ((opField w = 0x02#8 ∧ (rndField w).toNat ≤ 10 ∧ i = .ark (rndField w)) ∨
        (rndField w = 0#4 ∧ formatN (opField w) = some i)) := by
  have hz : zeroField w = 0#20 := by
    by_contra hz
    rw [decode_of_zeroField_ne hz] at h
    cases h
  refine ⟨hz, ?_⟩
  by_cases hop : opField w = 0x02#8
  · by_cases hr : (rndField w).toNat ≤ 10
    · rw [decode_of_round hz hop hr] at h; cases h
      exact .inl ⟨hop, hr, rfl⟩
    · rw [decode_of_round_gt hz hop (by omega)] at h; cases h
  · have hr : rndField w = 0#4 := by
      by_contra hr
      rw [decode_of_rndField_ne hz hop hr] at h
      cases h
    cases hi : formatN (opField w) with
    | none => rw [decode_of_formatN_none hz hop hr hi] at h; cases h
    | some j =>
      rw [decode_of_formatN hz hr hi] at h; cases h
      exact .inr ⟨hr, rfl⟩

/-! ## Decoder and encoder are inverse -/

theorem decode_encode (h : i.wellFormed = true) : decode (encode i) = .ok i := by
  obtain ⟨hop, hrnd, hzero⟩ := fields_encode i
  cases i with
  | ark r =>
    have hr : (rndField (encode (.ark r))).toNat ≤ 10 := by
      simpa only [hrnd, roundOperandField, Instr.wellFormed, decide_eq_true_eq] using h
    rw [decode_of_round hzero hop hr, hrnd, roundOperandField]
  | _ => exact decode_of_formatN hzero hrnd (by rw [hop]; rfl)

theorem encode_of_decode (h : decode w = .ok i) : i.wellFormed = true ∧ encode i = w := by
  obtain ⟨hz, ⟨hop, hr, rfl⟩ | ⟨hr, hi⟩⟩ := decode_ok_cases h
  · refine ⟨by simpa [Instr.wellFormed] using hr, ?_⟩
    calc encode (.ark (rndField w)) = zeroField w ++ rndField w ++ opField w := by rw [hz, hop]; rfl
      _ = w := fields_append w
  · obtain ⟨hw, hop, hrnd⟩ := formatN_some hi
    refine ⟨hw, ?_⟩
    calc encode i = zeroField w ++ rndField w ++ opField w := by rw [hz, hr, ← hop, ← hrnd]; rfl
      _ = w := fields_append w

/-- R91, R92, R95: the words that decode to a command are its own word, if it is well formed, and no other. -/
theorem decode_eq_ok_iff : decode w = .ok i ↔ i.wellFormed = true ∧ encode i = w := by
  refine ⟨encode_of_decode, ?_⟩
  rintro ⟨hw, rfl⟩
  exact decode_encode hw

/-! ## The clauses over numbers -/

theorem zeroField_eq_zero_iff : zeroField w = 0#20 ↔ w.toNat / 4096 = 0 := by
  rw [← BitVec.toNat_inj, toNat_zeroField]; rfl

theorem opField_eq_iff {op : BitVec 8} : opField w = op ↔ w.toNat % 256 = op.toNat := by
  rw [← BitVec.toNat_inj, toNat_opField]

theorem rndField_eq_iff {r : BitVec 4} : rndField w = r ↔ w.toNat / 256 % 16 = r.toNat := by
  rw [← BitVec.toNat_inj, toNat_rndField]

/-- R91, R95 (4): a format-N command is decoded from its opcode, the other fields being 0. -/
theorem decode_of_opcode (i : Instr) (hi : formatN (opcode i) = some i) (hz : w.toNat / 4096 = 0)
    (hr : w.toNat / 256 % 16 = 0) (hop : w.toNat % 256 = (opcode i).toNat) : decode w = .ok i :=
  decode_of_formatN (zeroField_eq_zero_iff.mpr hz) (rndField_eq_iff.mpr hr)
    (by rw [opField_eq_iff.mpr hop]; exact hi)

/-- R94: the thirteen opcodes. -/
theorem opcode_mem (i : Instr) : (opcode i).toNat ∈
    [0x01, 0x02, 0x03, 0x04, 0x05, 0x06, 0x07, 0x08, 0x09, 0x0A, 0x0B, 0x0E, 0x0F] := by
  cases i with
  | ark r => simp [opcode]
  | _ => decide

/-- R95: a word whose opcode names no command is illegal. -/
theorem decode_error_of_opcode (hop : w.toNat % 256 ∉
    [0x01, 0x02, 0x03, 0x04, 0x05, 0x06, 0x07, 0x08, 0x09, 0x0A, 0x0B, 0x0E, 0x0F]) :
    ∃ e, decode w = .error e := by
  cases h : decode w with
  | error e => exact ⟨e, rfl⟩
  | ok i =>
    obtain ⟨-, rfl⟩ := encode_of_decode h
    obtain ⟨hopcode, -, -⟩ := fields_encode i
    rw [← toNat_opField, hopcode] at hop
    exact absurd (opcode_mem i) hop

/-- R94: a row whose mask is all ones and whose match is the command's word. -/
theorem decode_iff_full_mask (hw : i.wellFormed = true) :
    decode w = .ok i ↔ w &&& 0xFFFFFFFF#32 = encode i := by
  rw [show w &&& 0xFFFFFFFF#32 = w from BitVec.and_allOnes, decode_eq_ok_iff, and_iff_right hw, eq_comm]

/-- R94: the mask of ARK's row drops `rnd`; its match asks for `zero` = 0 and `op` = 0x02. -/
theorem ark_mask_iff : w &&& 0xFFFFF0FF#32 = 0x00000002#32 ↔ zeroField w = 0#20 ∧ opField w = 0x02#8 := by
  constructor
  · intro h
    have hz := congrArg zeroField h
    have hop := congrArg opField h
    simp only [zeroField, opField, BitVec.extractLsb'_and] at hz hop ⊢
    exact ⟨(BitVec.and_allOnes).symm.trans hz, (BitVec.and_allOnes).symm.trans hop⟩
  · rintro ⟨hz, hop⟩
    have all : ∀ r : BitVec 4, (0#20 ++ r ++ 0x02#8) &&& 0xFFFFF0FF#32 = 0x00000002#32 := by decide
    rw [← fields_append w, hz, hop]
    exact all _

end

/-! ## The legal commands -/

/-- R95: the 23 commands, in the order of the opcode table. -/
def legalCommands : List Instr :=
  [.kexp, .ark 0, .ark 1, .ark 2, .ark 3, .ark 4, .ark 5, .ark 6, .ark 7, .ark 8, .ark 9, .ark 10,
    .subb, .isubb, .shrow, .ishrow, .mixc, .imixc, .encb, .decb, .ecbd, .zeroize, .clrerr]

theorem mem_legalCommands_iff (i : Instr) : i ∈ legalCommands ↔ i.wellFormed = true := by
  cases i with
  | ark r => revert r; decide
  | _ => decide

/-- R95: a word is legal exactly when it is the word of a legal command. -/
theorem decode_ok_iff_mem (w : Word) : (∃ i, decode w = .ok i) ↔ w ∈ legalCommands.map encode := by
  simp only [List.mem_map, mem_legalCommands_iff, decode_eq_ok_iff]

/-- Settles O1: the fields of the command's word meet clause (2) or clause (4) of the decoder. -/
theorem decodeOfEncode : Obligations.DecodeOfEncode := fun _ => decode_encode

/-- Settles O2: the clause that decodes the word fixes its three fields. -/
theorem encodeOfDecode : Obligations.EncodeOfDecode := fun _ _ => encode_of_decode

/-- Settles O3: the clauses of `decode`, their fields read as numbers. -/
theorem decodingFollowsItsClauses : Obligations.DecodingFollowsItsClauses := by
  intro w
  refine ⟨fun hz => ?_, fun hz hop hr => ?_, fun hz hop hr => ?_, fun hz hop hr => ?_,
    fun hz hr => ?_, ?_⟩
  · exact ⟨_, decode_of_zeroField_ne (mt zeroField_eq_zero_iff.mp hz)⟩
  · rw [← toNat_rndField, BitVec.ofNat_toNat, BitVec.setWidth_eq]
    rw [← toNat_rndField] at hr
    exact decode_of_round (zeroField_eq_zero_iff.mpr hz) (opField_eq_iff.mpr hop) hr
  · rw [← toNat_rndField] at hr
    exact ⟨_, decode_of_round_gt (zeroField_eq_zero_iff.mpr hz) (opField_eq_iff.mpr hop) hr⟩
  · exact ⟨_, decode_of_rndField_ne (zeroField_eq_zero_iff.mpr hz) (mt opField_eq_iff.mp hop)
      (mt rndField_eq_iff.mp hr)⟩
  · exact ⟨decode_of_opcode .kexp rfl hz hr, decode_of_opcode .subb rfl hz hr,
      decode_of_opcode .isubb rfl hz hr, decode_of_opcode .shrow rfl hz hr,
      decode_of_opcode .ishrow rfl hz hr, decode_of_opcode .mixc rfl hz hr,
      decode_of_opcode .imixc rfl hz hr, decode_of_opcode .encb rfl hz hr,
      decode_of_opcode .decb rfl hz hr, decode_of_opcode .ecbd rfl hz hr,
      decode_of_opcode .zeroize rfl hz hr, decode_of_opcode .clrerr rfl hz hr,
      decode_error_of_opcode⟩
  · cases h : decode w with
    | error e => exact .inl ⟨e, rfl⟩
    | ok i =>
      refine .inr ⟨i, rfl, ?_⟩
      obtain ⟨hw, -⟩ := encode_of_decode h
      cases i with
      | ark r => exact .inr ⟨r, by simpa [Instr.wellFormed] using hw, rfl⟩
      | _ => exact .inl (by decide)

/-- Settles O4: twelve rows compare the whole word, ARK's row all but `rnd`. -/
theorem opcodeTableRows : Obligations.OpcodeTableRows := by
  intro w
  refine ⟨decode_iff_full_mask rfl, fun r => ?_, decode_iff_full_mask rfl, decode_iff_full_mask rfl,
    decode_iff_full_mask rfl, decode_iff_full_mask rfl, decode_iff_full_mask rfl,
    decode_iff_full_mask rfl, decode_iff_full_mask rfl, decode_iff_full_mask rfl,
    decode_iff_full_mask rfl, decode_iff_full_mask rfl, decode_iff_full_mask rfl⟩
  rw [ark_mask_iff, ← toNat_rndField, BitVec.toNat_inj]
  constructor
  · intro h
    obtain ⟨hz, ⟨hop, hr, hark⟩ | ⟨-, hi⟩⟩ := decode_ok_cases h
    · cases hark
      exact ⟨⟨hz, hop⟩, rfl, hr⟩
    · obtain ⟨-, hop, -⟩ := formatN_some hi
      rw [← hop] at hi
      cases hi
  · rintro ⟨⟨hz, hop⟩, rfl, hr⟩
    exact decode_of_round hz hop hr

/-- Settles O5: the listed words are those of the 23 legal commands. -/
theorem exactlyTwentyThreeLegalWords : Obligations.ExactlyTwentyThreeLegalWords := decode_ok_iff_mem

/-- Settles O6: each word is decoded. -/
theorem sampleWordsDecode : Obligations.SampleWordsDecode := by
  unfold Obligations.SampleWordsDecode
  decide

end Sys2Proof

namespace Sys2Proof.Machine

/-! ## Sequences of round commands without a schedule

From its first ARK on, such a sequence has recorded NOKEY, and every command only replaces BLK. -/

/-- A legal ARK or one of the six round commands that need no schedule (R160). -/
def isRoundCommand : Instr → Bool
  | .ark r => decide (r.toNat ≤ 10)
  | .subb | .isubb | .shrow | .ishrow | .mixc | .imixc => true
  | _ => false

/-- What a round command makes of BLK when no schedule is stored: ARK leaves it (R162). -/
def keylessEffect : Instr → Block → Block
  | .subb => subBytes
  | .isubb => invSubBytes
  | .shrow => shiftRows
  | .ishrow => invShiftRows
  | .mixc => mixColumns
  | .imixc => invMixColumns
  | _ => id

section

variable {s : State} (hs : s.rk = none)
include hs

/-- R162: a legal ARK without a schedule records NOKEY. -/
theorem exec_ark_without_schedule {r : BitVec 4} (hr : r.toNat ≤ 10) :
    exec (.ark r) s = .next (s.recordFault .nokey) := by
  simp only [exec, execArk, roundIndex_some hr]
  exact withSchedule_none hs _

/-- R160, R217: with NOKEY recorded and no schedule, a round command only replaces BLK. -/
theorem exec_roundCommand_after_nokey {i : Instr} (hi : isRoundCommand i = true) (b : Block) :
    exec i ((s.recordFault .nokey).setBlk b) =
      .next ((s.recordFault .nokey).setBlk (keylessEffect i b)) := by
  cases i with
  | ark r =>
    have hr : r.toNat ≤ 10 := by simpa [isRoundCommand] using hi
    rw [exec_ark_without_schedule (s := (s.recordFault .nokey).setBlk b) hs hr]
    simp [State.recordFault, State.setBlk, keylessEffect]
  | subb | isubb | shrow | ishrow | mixc | imixc => rfl
  | kexp | encb | decb | ecbd | zeroize | clrerr => cases hi

/-- The same for a sequence of round commands. -/
theorem execAll_roundCommands_after_nokey (is : List Instr) (his : is.all isRoundCommand = true)
    (b : Block) :
    execAll is ((s.recordFault .nokey).setBlk b) =
      .next ((s.recordFault .nokey).setBlk (is.foldl (fun b i => keylessEffect i b) b)) := by
  induction is generalizing b with
  | nil => rfl
  | cons i is ih =>
    simp only [List.all_cons, Bool.and_eq_true] at his
    obtain ⟨hi, his⟩ := his
    rw [execAll_cons (exec_roundCommand_after_nokey hs hi b), ih his, List.foldl_cons]

/-- R185: a sequence that begins with ARK records NOKEY, performs its keyless commands on BLK and changes
nothing else. -/
theorem execAll_ark_without_schedule {r : BitVec 4} (hr : r.toNat ≤ 10) (is : List Instr)
    (his : is.all isRoundCommand = true) :
    ∃ t, execAll (.ark r :: is) s = .next t ∧ t.blk = is.foldl (fun b i => keylessEffect i b) s.blk ∧
      t.err = true ∧ t.cause = (if s.err then s.cause else .nokey) ∧
      State.UnchangedExcept [.blk, .err, .cause] s t := by
  refine ⟨_, ?_, State.setBlk_blk (s.recordFault .nokey) _, rfl, rfl, ?_⟩
  · rw [execAll_cons (exec_ark_without_schedule hs hr)]
    exact execAll_roundCommands_after_nokey hs is his s.blk
  · simp [State.UnchangedExcept]

end

/-- Settles O31: both sequences begin with ARK and go on with round commands; ENCB and DECB only record NOKEY. -/
theorem encbSequenceWithoutKey : Obligations.EncbSequenceWithoutKey := by
  intro s hs
  refine ⟨?_, ⟨_, withSchedule_none hs _, faultEntered_recordFault _ _⟩,
    ?_, ⟨_, withSchedule_none hs _, faultEntered_recordFault _ _⟩⟩
  · exact execAll_ark_without_schedule hs (by decide) _ (by decide)
  · exact execAll_ark_without_schedule hs (by decide) _ (by decide)

/-- Settles O23: such a term is not well formed. -/
theorem arkAboveTenIsIllegal : Obligations.ArkAboveTenIsIllegal := by
  intro s r hr
  have hw : ¬ (Instr.ark r).wellFormed = true := by simpa [Instr.wellFormed] using hr
  exact ⟨_, exec_of_not_wellFormed hw s, faultEntered_recordFault _ _⟩

end Sys2Proof.Machine
end

section
/-! PROOFS. The statements of spec/40_arithmetic.md: first what doubling, multiplication, the S-box and the word
functions do, said once, then the statements. -/

namespace Sys2Proof

/-! ## Doubling -/

/-- Halving and doubling again gives a byte back, up to its lowest bit. -/
theorem xtime_shiftRight_xor_low_bit (b : Byte) :
    xtime (b >>> 1) ^^^ (if b.getLsbD 0 then 1#8 else 0#8) = b := by
  apply BitVec.eq_of_getLsbD_eq
  intro i hi
  have hlow : (if b.getLsbD 0 then 1#8 else 0#8).getLsbD i = (decide (i = 0) && b.getLsbD 0) := by
    cases b.getLsbD 0 <;> simp
  rw [BitVec.getLsbD_xor, getLsbD_xtime, hlow]
  cases i with
  | zero => simp
  | succ i => simp [hi, Nat.add_comm 1 i]

/-- Every byte is made of 0x01 by doubling and exclusive-or, so what holds of 0x01 and is kept by both holds of
every byte. -/
theorem byte_induction {P : Byte → Prop} (one : P 1#8) (double : ∀ b, P b → P (xtime b))
    (xor : ∀ a b, P a → P b → P (a ^^^ b)) (b : Byte) : P b := by
  have zero : P 0#8 := xor 1#8 1#8 one one
  induction hn : b.toNat using Nat.strong_induction_on generalizing b with
  | _ n ih =>
    by_cases hb : b = 0#8
    · exact hb ▸ zero
    · have hpos : b.toNat ≠ 0 := fun h => hb (BitVec.eq_of_toNat_eq h)
      have half : P (b >>> 1) := by
        refine ih _ ?_ _ rfl
        rw [BitVec.toNat_ushiftRight, Nat.shiftRight_eq_div_pow]
        omega
      rw [← xtime_shiftRight_xor_low_bit b]
      refine xor _ _ (double _ half) ?_
      split
      · exact one
      · exact zero

/-- Bit 7 of a byte, the test of R121, read on its number. -/
theorem getLsbD_seven_eq (b : Byte) : b.getLsbD 7 = decide (128 ≤ b.toNat) := by
  have hb := b.isLt
  rw [BitVec.getLsbD, Nat.testBit_eq_decide_div_mod_eq]
  simp only [decide_eq_decide]
  omega

/-- On a 9-bit value with bit 8 set, adding 0x11B clears that bit and adds 0x1B to the low eight. -/
theorem xor_elevenB {n : Nat} (hlow : 256 ≤ n) (hhigh : n < 512) : n ^^^ 0x11B = (n % 256) ^^^ 0x1B := by
  have hn : n / 2 ^ 8 = 1 := by omega
  have hdiv : (n ^^^ 0x11B) / 2 ^ 8 = 0 := by
    rw [Nat.xor_div_two_pow, hn]
    rfl
  have hmod : (n ^^^ 0x11B) % 2 ^ 8 = n % 256 ^^^ 0x1B := Nat.xor_mod_two_pow
  omega

/-! ## Multiplication -/

theorem xtime_zero : xtime 0#8 = 0#8 := by decide

/-- The loop of R122 commutes with doubling its first operand. -/
theorem foldl_gmulStep_xtime (b : Byte) (is : List Nat) (p t : Byte) :
    (is.foldl (gmulStep b) (xtime p, xtime t)).1 = xtime (is.foldl (gmulStep b) (p, t)).1 := by
  induction is generalizing p t with
  | nil => rfl
  | cons i is ih =>
    have hstep : gmulStep b (xtime p, xtime t) i =
        (xtime (gmulStep b (p, t) i).1, xtime (gmulStep b (p, t) i).2) := by
      unfold gmulStep
      split
      · rw [xtime_xor]
      · rfl
    rw [List.foldl_cons, List.foldl_cons, hstep, ih]

/-- One step of the loop of R122 splits over an exclusive-or of its second operands: where both have the bit, the
doubled operand `t` cancels. -/
theorem gmulStep_xor_right (b c p q t : Byte) (i : Nat) :
    gmulStep (b ^^^ c) (p ^^^ q, t) i =
      ((gmulStep b (p, t) i).1 ^^^ (gmulStep c (q, t) i).1, xtime t) := by
  have hcancel : p ^^^ t ^^^ (q ^^^ t) = p ^^^ q :=
    calc p ^^^ t ^^^ (q ^^^ t) = p ^^^ q ^^^ (t ^^^ t) := by ac_rfl
      _ = p ^^^ q := by rw [BitVec.xor_self, BitVec.xor_zero]
  have hswap : p ^^^ q ^^^ t = p ^^^ t ^^^ q := by ac_rfl
  unfold gmulStep
  cases hb : b.getLsbD i
  · cases hc : c.getLsbD i
    · simp [hb, hc]
    · simp [hb, hc, BitVec.xor_assoc]
  · cases hc : c.getLsbD i
    · simp [hb, hc, hswap]
    · simp [hb, hc, hcancel]

/-- The loop of R122 splits over an exclusive-or of its second operands. -/
theorem foldl_gmulStep_xor_right (b c : Byte) (is : List Nat) (p q t : Byte) :
    (is.foldl (gmulStep (b ^^^ c)) (p ^^^ q, t)).1 =
      (is.foldl (gmulStep b) (p, t)).1 ^^^ (is.foldl (gmulStep c) (q, t)).1 := by
  induction is generalizing p q t with
  | nil => rfl
  | cons i is ih =>
    rw [List.foldl_cons, gmulStep_xor_right, ih]
    rfl

theorem gmul_xtime_left (a b : Byte) : gmul (xtime a) b = xtime (gmul a b) := by
  have h := foldl_gmulStep_xtime b [0, 1, 2, 3, 4, 5, 6, 7] 0#8 a
  rw [xtime_zero] at h
  exact h

theorem gmul_xor_right (a b c : Byte) : gmul a (b ^^^ c) = gmul a b ^^^ gmul a c :=
  foldl_gmulStep_xor_right b c [0, 1, 2, 3, 4, 5, 6, 7] 0#8 0#8 a

@[simp] theorem gmul_one_right (a : Byte) : gmul a 1#8 = a := by
  simp [gmul, gmulStep]

/-- 0x01 doubled `i` times is bit `i` alone, so the loop copies the bits of `b`: evaluated at every byte. -/
@[simp] theorem gmul_one_left : ∀ b : Byte, gmul 1#8 b = b := by decide

theorem gmul_xtime_right (a b : Byte) : gmul a (xtime b) = xtime (gmul a b) := by
  induction a using byte_induction with
  | one => simp
  | double a ih => rw [gmul_xtime_left, gmul_xtime_left, ih]
  | xor a c iha ihc => rw [gmul_xor_left, gmul_xor_left, iha, ihc, xtime_xor]

/-- Both products of `b` and a byte made of 0x01 are made of `b` in the same way. -/
theorem gmul_comm (a b : Byte) : gmul a b = gmul b a := by
  induction a using byte_induction with
  | one => simp
  | double a ih => rw [gmul_xtime_left, gmul_xtime_right, ih]
  | xor a c iha ihc => rw [gmul_xor_left, gmul_xor_right, iha, ihc]

theorem gmul_assoc (a b c : Byte) : gmul (gmul a b) c = gmul a (gmul b c) := by
  induction a using byte_induction with
  | one => simp
  | double a ih => simp only [gmul_xtime_left, ih]
  | xor a d iha ihd => simp only [gmul_xor_left, iha, ihd]

@[simp] theorem gmul_zero_right (a : Byte) : gmul a 0#8 = 0#8 := by
  rw [gmul_comm, gmul_zero_left]

/-- An inverse is unique, as in every commutative monoid. -/
theorem gmul_inverse_unique {a b c : Byte} (hb : gmul a b = 1#8) (hc : gmul a c = 1#8) : c = b :=
  calc c = gmul (gmul b a) c := by rw [gmul_comm b a, hb, gmul_one_left]
    _ = gmul b (gmul a c) := gmul_assoc b a c
    _ = b := by rw [hc, gmul_one_right]

/-! ## Round constants -/

/-- R125: the round constant is the most significant byte of its word. -/
theorem toNat_rconW (r : Nat) : (rconW r).toNat = (rc (r - 1)).toNat * 2 ^ 24 := by
  have h := (rc (r - 1)).isLt
  simp only [rconW, BitVec.toNat_shiftLeft, BitVec.truncate_eq_setWidth, BitVec.toNat_setWidth, Nat.shiftLeft_eq]
  omega

/-! ## The S-box -/

/-- The affine map of R128. -/
def sboxAffine (v : Byte) : Byte :=
  v ^^^ v.rotateLeft 1 ^^^ v.rotateLeft 2 ^^^ v.rotateLeft 3 ^^^ v.rotateLeft 4 ^^^ 0x63#8

/-- R128 solved for `v`: the affine map undone. -/
def sboxAffineInverse (y : Byte) : Byte :=
  y.rotateLeft 1 ^^^ y.rotateLeft 3 ^^^ y.rotateLeft 6 ^^^ 0x05#8

theorem sboxAffine_sboxAffineInverse : ∀ y : Byte, sboxAffine (sboxAffineInverse y) = y := by decide

/-- R128 over the whole table: the affine map undone gives each non-zero byte its inverse. -/
theorem gmul_sboxAffineInverse_S : ∀ x : Byte, x ≠ 0#8 → gmul x (sboxAffineInverse (S x)) = 1#8 := by
  decide

/-- R127: the inverse table undoes the table, at each of its entries. -/
@[simp] theorem IS_S : ∀ x : Byte, IS (S x) = x := by decide

@[simp] theorem S_IS : ∀ x : Byte, S (IS x) = x := by decide

theorem S_ne_self : ∀ x : Byte, S x ≠ x := by decide

theorem S_ne_complement : ∀ x : Byte, S x ≠ x ^^^ 0xFF#8 := by decide

/-! ## Word functions -/

/-- R129: the first byte of the word moves to its end. -/
theorem rotWord_toWord (a0 a1 a2 a3 : Byte) :
    rotWord (Column.mk a0 a1 a2 a3).toWord = (Column.mk a1 a2 a3 a0).toWord := by
  apply BitVec.eq_of_getLsbD_eq
  intro i hi
  have htop : (Column.mk a0 a1 a2 a3).toWord.getLsbD (24 + i) = a0.getLsbD i := by
    rw [Column.getLsbD_toWord, if_neg (by omega), if_neg (by omega), if_neg (by omega), Nat.add_sub_cancel_left]
  rw [rotWord, BitVec.getLsbD_or, BitVec.getLsbD_shiftLeft, BitVec.getLsbD_ushiftRight, htop,
    Column.getLsbD_toWord, Column.getLsbD_toWord]
  by_cases h : i < 8
  · simp [h]
  · have h8 : i - 8 < 8 ↔ i < 16 := by omega
    have h16 : i - 8 < 16 ↔ i < 24 := by omega
    have h24 : i - 8 < 24 := by omega
    simp [h, hi, h8, h16, h24, BitVec.getLsbD_of_ge a0 i (by omega), Nat.sub_sub]

/-- R130: the bytes of a column's word are the column's. -/
theorem subWord_toWord (c : Column) : subWord c.toWord = (c.map S).toWord := by
  rw [subWord, Column.ofWord_toWord]

/-! ## The statements -/

/-- Settles O14: the laws are proved by `byte_induction`, over bytes made of 0x01 by doubling and exclusive-or; an
inverse is read from the S-box by undoing its affine map. -/
theorem gmulFieldLaws : Obligations.GmulFieldLaws :=
  ⟨gmul_comm, gmul_assoc, gmul_xor_right, fun a => ⟨gmul_one_right a, gmul_zero_right a⟩,
    fun a ha => ⟨sboxAffineInverse (S a), gmul_sboxAffineInverse_S a ha,
      fun _ hc => gmul_inverse_unique (gmul_sboxAffineInverse_S a ha) hc⟩⟩

/-- Settles O18: the affine map solved for `v` gives the inverse of `x`. -/
theorem sBoxIsAffineOfInverse : Obligations.SBoxIsAffineOfInverse := by
  intro x
  refine ⟨sboxAffineInverse (S x), ?_, gmul_sboxAffineInverse_S x, (sboxAffine_sboxAffineInverse (S x)).symm⟩
  rintro rfl
  decide

/-- Settles O13: the 9-bit value `2 * b` keeps its low eight bits in the shift, and 0x11B clears bit 8. -/
theorem doublingReducesByElevenB : Obligations.DoublingReducesByElevenB := by
  intro b
  have hb := b.isLt
  have hshift : (b <<< 1).toNat = 2 * b.toNat % 256 := by
    rw [BitVec.toNat_shiftLeft, Nat.shiftLeft_eq, Nat.mul_comm]
  rw [xtime, getLsbD_seven_eq]
  by_cases h : 128 ≤ b.toNat
  · rw [if_pos (decide_eq_true h), if_pos h, BitVec.toNat_xor, hshift, xor_elevenB (by omega) (by omega)]
    rfl
  · rw [if_neg (by simpa using h), if_neg h, hshift]
    omega

/-- Settles O15: each multiplier is written with doubling and exclusive-or from 0x01, over which `gmul` splits. -/
theorem constantMultipliers : Obligations.ConstantMultipliers := by
  intro a
  have two : 2#8 = xtime 1#8 := by decide
  have three : 3#8 = xtime 1#8 ^^^ 1#8 := by decide
  have nine : 9#8 = xtime (xtime (xtime 1#8)) ^^^ 1#8 := by decide
  have eleven : 11#8 = xtime (xtime (xtime 1#8)) ^^^ xtime 1#8 ^^^ 1#8 := by decide
  have thirteen : 13#8 = xtime (xtime (xtime 1#8)) ^^^ xtime (xtime 1#8) ^^^ 1#8 := by decide
  have fourteen : 14#8 = xtime (xtime (xtime 1#8)) ^^^ xtime (xtime 1#8) ^^^ xtime 1#8 := by decide
  simp only [two, three, nine, eleven, thirteen, fourteen, gmul_xor_right, gmul_xtime_right, gmul_one_right, and_self]

/-- Settles O16: the constants by evaluation, the recurrence by definition, the word by `toNat_rconW`. -/
theorem roundConstants : Obligations.RoundConstants :=
  ⟨by decide, fun _ => rfl, fun r _ _ => toNat_rconW r⟩

/-- Settles O17: each part is a fact about all entries of the tables. -/
theorem sBoxTablesAreInverse : Obligations.SBoxTablesAreInverse :=
  fun x => ⟨IS_S x, S_IS x, S_ne_self x, S_ne_complement x⟩

/-- Settles O19: a word of four bytes is the word of a column. -/
theorem wordFunctionsOnBytes : Obligations.WordFunctionsOnBytes :=
  fun a0 a1 a2 a3 => ⟨rotWord_toWord a0 a1 a2 a3, subWord_toWord ⟨a0, a1, a2, a3⟩⟩

end Sys2Proof
end

section
/-! PROOFS. The statements of spec/41_key_schedule.md: first the expanded key, read by its words, then the
statements. -/

namespace Sys2Proof

/-- R12: the bytes of a column are those of its word. -/
theorem Column.toWord_injective : Function.Injective Column.toWord :=
  Function.LeftInverse.injective Column.ofWord_toWord

/-- R12: a block is its four words. -/
theorem Block.ext_word {a b : Block} (h : ∀ i, a.word i = b.word i) : a = b :=
  Block.ext_col fun c => Column.toWord_injective (h c)

/-- R150, R152: round key 0 of the expanded key is the key. -/
theorem get_zero_expandKey (key : Block) : (expandKey key).get 0 = key :=
  Block.ext_word fun i =>
    calc ((expandKey key).get 0).word i
      _ = (expandKey key).W (4 * 0 + i.val) := (Schedule.W_eq_word _ 0 i).symm
      _ = key.word i := by rw [Nat.mul_zero, Nat.zero_add, W_expandKey_key]

/-- R151: the recurrence of the schedule words, indexed by the word computed, with its round constant written out. -/
theorem W_expandKey_rule (key : Block) {i : Nat} (hlow : 4 ≤ i) (hhigh : i < 44) :
    (expandKey key).W i = if i % 4 = 0
      then (expandKey key).W (i - 4) ^^^ subWord (rotWord ((expandKey key).W (i - 1))) ^^^
        ((rc (i / 4 - 1)).zeroExtend 32 <<< 24)
      else (expandKey key).W (i - 4) ^^^ (expandKey key).W (i - 1) := by
  obtain ⟨k, rfl⟩ := Nat.exists_eq_add_of_le' hlow
  rw [W_expandKey_next key k (by omega), nextWord, rconW, Nat.add_sub_cancel, Nat.add_succ_sub_one]

end Sys2Proof

namespace Sys2Proof.Machine

/-- R153: KEXP stores the expanded key, from every state. -/
theorem exec_kexp (s : State) : exec .kexp s = .next (s.setSchedule (expandKey s.key)) := rfl

/-- R153: storing the schedule that is stored changes nothing. -/
@[simp] theorem State.setSchedule_setSchedule (s : State) (K L : Schedule) :
    (s.setSchedule K).setSchedule L = s.setSchedule L := rfl

/-- R27: with a schedule, RKWi reads schedule word `i`. -/
theorem State.readReg_rkw {s : State} {K : Schedule} (h : s.rk = some K) (i : Fin 44) :
    s.readReg (.rkw i) = K.word i := by
  rw [State.readReg, State.rkwRead, h]

/-- Settles O20: the stored schedule is `expandKey`, whose words are the key's and then follow the recurrence. -/
theorem kexpStoresTheSchedule : Obligations.KexpStoresTheSchedule := by
  refine ⟨decode_encode (i := .kexp) rfl, fun s => ⟨_, expandKey s.key, exec_kexp s, rfl, rfl,
    W_expandKey_key s.key, fun i => W_expandKey_rule s.key, ?_⟩⟩
  simp [State.UnchangedExcept]

/-- Settles O21: round key 0 and the first four schedule words of `expandKey` are the key's, and the second KEXP
expands the same KEY. -/
theorem kexpReadsBackItsKey : Obligations.KexpReadsBackItsKey := by
  intro s t h
  rw [exec_kexp] at h
  cases h
  refine ⟨⟨_, rfl, get_zero_expandKey s.key⟩, fun i => ?_, ?_⟩
  · rw [State.readReg_rkw (State.setSchedule_rk s _)]
    exact W_expandKey_key s.key i
  · rw [exec_kexp, State.setSchedule_setSchedule, State.setSchedule_key]

end Sys2Proof.Machine
end

section
/-! PROOFS. The statements of spec/42_round_transforms.md, with the inversion and the missing schedule of
spec/43_block_cipher.md: first what the transformations do, said once, then the statements. -/

namespace Sys2Proof

/-! ## Maps of order four

ShiftRows and MixColumns both have order four, and their inverses are their third powers. -/

section

variable {α : Type} {f g : α → α}

theorem leftInverse_of_order_four (h3 : g = f^[3]) (h4 : f^[4] = id) : Function.LeftInverse g f := by
  intro x
  rw [h3, ← Function.iterate_succ_apply, h4, id]

theorem rightInverse_of_order_four (h3 : g = f^[3]) (h4 : f^[4] = id) : Function.RightInverse g f := by
  intro x
  rw [h3, ← Function.iterate_succ_apply' f, h4, id]

end

/-! ## ShiftRows -/

@[simp] theorem at_shiftRows (s : Block) (r c : Fin 4) : (shiftRows s).at r c = s.at r (c + r) := by
  rw [shiftRows, Block.at_ofMatrix]

@[simp] theorem at_invShiftRows (s : Block) (r c : Fin 4) : (invShiftRows s).at r c = s.at r (c - r) := by
  rw [invShiftRows, Block.at_ofMatrix]

/-- R169: a row of four rotated left by `r` three times is rotated right by `r`. -/
theorem invShiftRows_eq_iterate : invShiftRows = shiftRows^[3] := by
  have hcol : ∀ r c : Fin 4, c - r = c + r + r + r := by decide
  funext s
  exact Block.ext_at fun r c => by simp [hcol]

/-- R167: a row of four rotated left by `r` four times is as it was. -/
theorem shiftRows_iterate_four : shiftRows^[4] = id := by
  have hcol : ∀ r c : Fin 4, c + r + r + r + r = c := by decide
  funext s
  exact Block.ext_at fun r c => by simp [hcol]

@[simp] theorem invShiftRows_shiftRows (s : Block) : invShiftRows (shiftRows s) = s :=
  leftInverse_of_order_four invShiftRows_eq_iterate shiftRows_iterate_four s

@[simp] theorem shiftRows_invShiftRows (s : Block) : shiftRows (invShiftRows s) = s :=
  rightInverse_of_order_four invShiftRows_eq_iterate shiftRows_iterate_four s

/-- R166: the permutation P, place by place. -/
theorem byte_shiftRows (s : Block) (j : Fin 16) : (shiftRows s).byte j = s.byte
    ([0, 5, 10, 15, 4, 9, 14, 3, 8, 13, 2, 7, 12, 1, 6, 11].getD j.val 0) := by
  fin_cases j <;> rfl

/-- R168: the permutation Q, place by place. -/
theorem byte_invShiftRows (s : Block) (j : Fin 16) : (invShiftRows s).byte j = s.byte
    ([0, 13, 10, 7, 4, 1, 14, 11, 8, 5, 2, 15, 12, 9, 6, 3].getD j.val 0) := by
  fin_cases j <;> rfl

/-- R166: row `r` is rotated left by `r`. -/
theorem byte_shiftRows_of_row (s : Block) (r c : Fin 4) :
    (shiftRows s).byte (Fin.ofNat 16 (r.val + 4 * c.val)) =
      s.byte (Fin.ofNat 16 (r.val + 4 * ((c.val + r.val) % 4))) := by
  rw [Block.byte_of_at, at_shiftRows, ← Block.byte_of_at, Fin.val_add]

/-- R168: row `r` is rotated right by `r`. -/
theorem byte_invShiftRows_of_row (s : Block) (r c : Fin 4) :
    (invShiftRows s).byte (Fin.ofNat 16 (r.val + 4 * c.val)) =
      s.byte (Fin.ofNat 16 (r.val + 4 * ((c.val + 4 - r.val) % 4))) := by
  have hcol : (c - r).val = (c.val + 4 - r.val) % 4 := by
    rw [Fin.val_sub]
    omega
  rw [Block.byte_of_at, at_invShiftRows, ← Block.byte_of_at, hcol]

theorem shiftRows_xor (s t : Block) : shiftRows (s.xor t) = (shiftRows s).xor (shiftRows t) :=
  Block.ext_at fun r c => by simp

theorem invShiftRows_xor (s t : Block) :
    invShiftRows (s.xor t) = (invShiftRows s).xor (invShiftRows t) :=
  Block.ext_at fun r c => by simp

/-! ## SubBytes and AddRoundKey -/

@[simp] theorem invSubBytes_subBytes (s : Block) : invSubBytes (subBytes s) = s :=
  Block.ext_byte fun j => by simp [invSubBytes, subBytes]

@[simp] theorem subBytes_invSubBytes (s : Block) : subBytes (invSubBytes s) = s :=
  Block.ext_byte fun j => by simp [invSubBytes, subBytes]

/-- R174: a map of the bytes in place commutes with a permutation of the places. -/
theorem map_shiftRows (f : Byte → Byte) (s : Block) : (shiftRows s).map f = shiftRows (s.map f) :=
  Block.ext_at fun r c => by simp

theorem map_invShiftRows (f : Byte → Byte) (s : Block) :
    (invShiftRows s).map f = invShiftRows (s.map f) :=
  Block.ext_at fun r c => by simp

@[simp] theorem addRoundKey_addRoundKey (s k : Block) : addRoundKey (addRoundKey s k) k = s :=
  Block.ext_byte fun j => by simp [addRoundKey]

/-- R174: the table sends 0x00 to 0x63 and not to 0x00, as a linear map would. -/
theorem not_subBytes_xor : ¬ ∀ s t, subBytes (s.xor t) = (subBytes s).xor (subBytes t) :=
  fun h => absurd (h Block.zero Block.zero) (by decide)

/-! ## Linear maps of columns

A map of columns that splits over exclusive-or and commutes with doubling is fixed by its values at the four
columns with a single 0x01, so an equation between such maps is an equation at these four. -/

/-- The column with byte `b` in row `k` and 0x00 in the others. -/
def Column.single (k : Fin 4) (b : Byte) : Column := Column.ofFn fun r => if r = k then b else 0#8

theorem Column.single_xtime (k : Fin 4) (b : Byte) : single k (xtime b) = (single k b).map xtime :=
  Column.ext_row fun r => by simp [single, apply_ite xtime, xtime_zero]

theorem Column.single_xor (k : Fin 4) (a b : Byte) :
    single k (a ^^^ b) = (single k a).xor (single k b) :=
  Column.ext_row fun r => by by_cases h : r = k <;> simp [single, h]

/-- A column is the sum of its four bytes, each in its row. -/
theorem Column.eq_xor_single (c : Column) :
    c = (single 0 c.r0).xor ((single 1 c.r1).xor ((single 2 c.r2).xor (single 3 c.r3))) := by
  simp [single, Column.xor, Column.ofFn]

/-- Every column is made of those with a single 0x01 by doubling and exclusive-or. -/
theorem Column.induction_single {P : Column → Prop} (one : ∀ k, P (single k 1#8))
    (double : ∀ c, P c → P (c.map xtime)) (xor : ∀ a b, P a → P b → P (a.xor b)) (c : Column) : P c := by
  have hsingle : ∀ k b, P (single k b) := by
    intro k b
    induction b using byte_induction with
    | one => exact one k
    | double b ih => exact single_xtime k b ▸ double _ ih
    | xor a b iha ihb => exact single_xor k a b ▸ xor _ _ iha ihb
  rw [Column.eq_xor_single c]
  exact xor _ _ (hsingle _ _) (xor _ _ (hsingle _ _) (xor _ _ (hsingle _ _) (hsingle _ _)))

/-- A map of columns that is linear over GF(2^8). -/
structure LinearOnColumns (f : Column → Column) : Prop where
  map_xor : ∀ a b, f (a.xor b) = (f a).xor (f b)
  map_xtime : ∀ a, f (a.map xtime) = (f a).map xtime

theorem LinearOnColumns.iterate {f : Column → Column} (hf : LinearOnColumns f) (n : Nat) :
    LinearOnColumns f^[n] := by
  induction n with
  | zero => exact ⟨fun _ _ => rfl, fun _ => rfl⟩
  | succ n ih =>
    rw [Function.iterate_succ']
    exact ⟨fun a b => by simp only [Function.comp_apply, ih.map_xor, hf.map_xor],
      fun a => by simp only [Function.comp_apply, ih.map_xtime, hf.map_xtime]⟩

theorem LinearOnColumns.ext {f g : Column → Column} (hf : LinearOnColumns f) (hg : LinearOnColumns g)
    (h : ∀ k, f (Column.single k 1#8) = g (Column.single k 1#8)) : f = g := by
  funext c
  induction c using Column.induction_single with
  | one k => exact h k
  | double c ih => rw [hf.map_xtime, hg.map_xtime, ih]
  | xor a b iha ihb => rw [hf.map_xor, hg.map_xor, iha, ihb]

/-! ## MixColumns -/

/-- The entry of a matrix at row `r`, column `k`. -/
def matrixEntry (m : List (List Byte)) (r k : Fin 4) : Byte := (m.getD r.val []).getD k.val 0#8

/-- A column multiplied from the left by a matrix over GF(2^8) (R170). -/
def multiplyColumn (m : List (List Byte)) (a : Column) : Column := Column.ofFn fun r =>
  gmul (a.row 0) (matrixEntry m r 0) ^^^ gmul (a.row 1) (matrixEntry m r 1) ^^^
    gmul (a.row 2) (matrixEntry m r 2) ^^^ gmul (a.row 3) (matrixEntry m r 3)

/-- The matrix of R170. -/
def mixMatrix : List (List Byte) := [[2, 3, 1, 1], [1, 2, 3, 1], [1, 1, 2, 3], [3, 1, 1, 2]]

/-- The inverse matrix of R172. -/
def invMixMatrix : List (List Byte) :=
  [[14, 11, 13, 9], [9, 14, 11, 13], [13, 9, 14, 11], [11, 13, 9, 14]]

theorem linearOnColumns_multiplyColumn (m : List (List Byte)) : LinearOnColumns (multiplyColumn m) where
  map_xor a b := Column.ext_row fun r => by
    simp only [multiplyColumn, Column.row_ofFn, Column.row_xor, gmul_xor_left]
    ac_rfl
  map_xtime a := Column.ext_row fun r => by
    simp only [multiplyColumn, Column.row_ofFn, Column.row_map, gmul_xtime_left, xtime_xor]

/-- R170: the entry 0x01 leaves a byte as it is. -/
theorem mixColumn_eq_multiplyColumn : mixColumn = multiplyColumn mixMatrix := by
  funext a
  simp [mixColumn, multiplyColumn, Column.ofFn, matrixEntry, mixMatrix, Column.row]

theorem invMixColumn_eq_multiplyColumn : invMixColumn = multiplyColumn invMixMatrix := rfl

theorem linearOnColumns_mixColumn : LinearOnColumns mixColumn :=
  mixColumn_eq_multiplyColumn ▸ linearOnColumns_multiplyColumn mixMatrix

theorem linearOnColumns_invMixColumn : LinearOnColumns invMixColumn :=
  linearOnColumns_multiplyColumn invMixMatrix

/-- R172: the third power of the matrix is its inverse. -/
theorem invMixColumn_eq_iterate : invMixColumn = mixColumn^[3] :=
  linearOnColumns_invMixColumn.ext (linearOnColumns_mixColumn.iterate 3) (by decide)

/-- R171: the fourth power of the matrix is the identity. -/
theorem mixColumn_iterate_four : mixColumn^[4] = id :=
  (linearOnColumns_mixColumn.iterate 4).ext ⟨fun _ _ => rfl, fun _ => rfl⟩ (by decide)

theorem Block.mapCols_iterate (f : Column → Column) (n : Nat) :
    (Block.mapCols f)^[n] = Block.mapCols f^[n] := by
  induction n with
  | zero => rfl
  | succ n ih => rw [Function.iterate_succ, ih]; rfl

theorem invMixColumns_eq_iterate : invMixColumns = mixColumns^[3] :=
  calc Block.mapCols invMixColumn
    _ = Block.mapCols mixColumn^[3] := by rw [invMixColumn_eq_iterate]
    _ = mixColumns^[3] := (Block.mapCols_iterate mixColumn 3).symm

theorem mixColumns_iterate_four : mixColumns^[4] = id :=
  calc (Block.mapCols mixColumn)^[4]
    _ = Block.mapCols mixColumn^[4] := Block.mapCols_iterate mixColumn 4
    _ = id := by rw [mixColumn_iterate_four]; rfl

@[simp] theorem invMixColumns_mixColumns (s : Block) : invMixColumns (mixColumns s) = s :=
  leftInverse_of_order_four invMixColumns_eq_iterate mixColumns_iterate_four s

@[simp] theorem mixColumns_invMixColumns (s : Block) : mixColumns (invMixColumns s) = s :=
  rightInverse_of_order_four invMixColumns_eq_iterate mixColumns_iterate_four s

theorem Block.mapCols_xor {f : Column → Column} (hf : LinearOnColumns f) (s t : Block) :
    (s.xor t).mapCols f = (s.mapCols f).xor (t.mapCols f) := by
  simp only [mapCols, Block.xor, hf.map_xor]

/-- R170, R172: the bytes of a block whose columns are multiplied by a matrix. -/
theorem Block.byte_mapCols_multiplyColumn (m : List (List Byte)) (b : Block) (r c : Fin 4) :
    (b.mapCols (multiplyColumn m)).byte (Fin.ofNat 16 (r.val + 4 * c.val)) =
      gmul (b.byte (Fin.ofNat 16 (0 + 4 * c.val))) (matrixEntry m r 0) ^^^
      gmul (b.byte (Fin.ofNat 16 (1 + 4 * c.val))) (matrixEntry m r 1) ^^^
      gmul (b.byte (Fin.ofNat 16 (2 + 4 * c.val))) (matrixEntry m r 2) ^^^
      gmul (b.byte (Fin.ofNat 16 (3 + 4 * c.val))) (matrixEntry m r 3) := by
  have hrow : ∀ k : Fin 4, b.byte (Fin.ofNat 16 (k.val + 4 * c.val)) = (b.col c).row k :=
    fun k => Block.byte_of_at b k c
  rw [Block.byte_of_at, Block.at, Block.col_mapCols, multiplyColumn, Column.row_ofFn,
    ← hrow 0, ← hrow 1, ← hrow 2, ← hrow 3]
  rfl

/-! ## Encryption and decryption -/

/-- Rounds that are undone one by one are undone together, the last one first. -/
theorem foldl_reverse_foldl {α β : Type} {f g : α → β → α} (h : ∀ t r, g (f t r) r = t) (rs : List β)
    (t : α) : rs.reverse.foldl g (rs.foldl f t) = t := by
  induction rs generalizing t with
  | nil => rfl
  | cons r rs ih =>
    rw [List.foldl_cons, List.reverse_cons, List.foldl_append, ih]
    exact h t r

theorem decryptRound_encryptRound (K : Schedule) (t : Block) (r : Fin 11) :
    decryptRound K (encryptRound K t r) r = t := by
  simp [decryptRound, encryptRound]

theorem encryptRound_decryptRound (K : Schedule) (t : Block) (r : Fin 11) :
    encryptRound K (decryptRound K t r) r = t := by
  simp [decryptRound, encryptRound]

theorem decryptFirstRound_encryptLastRound (K : Schedule) (t : Block) :
    decryptFirstRound K (encryptLastRound K t) = t := by
  simp [decryptFirstRound, encryptLastRound]

theorem encryptLastRound_decryptFirstRound (K : Schedule) (t : Block) :
    encryptLastRound K (decryptFirstRound K t) = t := by
  simp [decryptFirstRound, encryptLastRound]

/-- R184: each step of R182 undoes the step of R180 in the mirrored place. -/
theorem decrypt_encrypt (b : Block) (K : Schedule) : decrypt (encrypt b K) K = b := by
  rw [decrypt, encrypt, decryptFirstRound_encryptLastRound]
  have hrounds := foldl_reverse_foldl (decryptRound_encryptRound K) [1, 2, 3, 4, 5, 6, 7, 8, 9]
    (addRoundKey b (K.get 0))
  exact (congrArg (addRoundKey · (K.get 0)) hrounds).trans (addRoundKey_addRoundKey b (K.get 0))

/-- R184: each step of R180 undoes the step of R182 in the mirrored place. -/
theorem encrypt_decrypt (b : Block) (K : Schedule) : encrypt (decrypt b K) K = b := by
  rw [decrypt, encrypt, addRoundKey_addRoundKey]
  have hrounds := foldl_reverse_foldl (encryptRound_decryptRound K) [9, 8, 7, 6, 5, 4, 3, 2, 1]
    (decryptFirstRound K b)
  exact (congrArg (encryptLastRound K) hrounds).trans (encryptLastRound_decryptFirstRound K b)

end Sys2Proof

namespace Sys2Proof.Machine

/-! ## Commands on BLK -/

@[simp] theorem State.setBlk_setBlk (s : State) (b c : Block) : (s.setBlk b).setBlk c = s.setBlk c := rfl

@[simp] theorem State.setBlk_blk_self (s : State) : s.setBlk s.blk = s := rfl

/-- R160: the commands that only apply a transformation to BLK, from every state. -/
def AppliesToBlk (i : Instr) (f : Block → Block) : Prop := ∀ s, exec i s = .next (s.setBlk (f s.blk))

theorem appliesToBlk_subb : AppliesToBlk .subb subBytes := fun _ => rfl
theorem appliesToBlk_isubb : AppliesToBlk .isubb invSubBytes := fun _ => rfl
theorem appliesToBlk_shrow : AppliesToBlk .shrow shiftRows := fun _ => rfl
theorem appliesToBlk_ishrow : AppliesToBlk .ishrow invShiftRows := fun _ => rfl
theorem appliesToBlk_mixc : AppliesToBlk .mixc mixColumns := fun _ => rfl
theorem appliesToBlk_imixc : AppliesToBlk .imixc invMixColumns := fun _ => rfl

/-- Such a command repeated applies the power of its transformation. -/
theorem AppliesToBlk.execAll_replicate {i : Instr} {f : Block → Block} (h : AppliesToBlk i f) (n : Nat)
    (s : State) : execAll (List.replicate n i) s = .next (s.setBlk (f^[n] s.blk)) := by
  induction n generalizing s with
  | zero => rfl
  | succ n ih => rw [List.replicate_succ, execAll_cons (h s), ih]; rfl

/-- A command whose transformation has order four: four in a row restore the state. -/
theorem AppliesToBlk.execAll_four {i : Instr} {f : Block → Block} (h : AppliesToBlk i f)
    (h4 : f^[4] = id) (s : State) : execAll [i, i, i, i] s = .next s := by
  have hall := h.execAll_replicate 4 s
  rwa [h4, id, State.setBlk_blk_self] at hall

/-- Three commands in a row do what the command of the third power does. -/
theorem AppliesToBlk.execAll_three {i j : Instr} {f g : Block → Block} (h : AppliesToBlk i f)
    (hj : AppliesToBlk j g) (h3 : g = f^[3]) (s : State) : execAll [i, i, i] s = exec j s := by
  rw [hj s, h3]
  exact h.execAll_replicate 3 s

section

variable {s : State} {K : Schedule} (hs : s.rk = some K)
include hs

/-- R162: ARK with a schedule and a legal index. -/
theorem exec_ark_with_schedule {r : BitVec 4} (hr : r.toNat ≤ 10) : exec (.ark r) s =
    .next (s.setBlk (addRoundKey s.blk (K.get (Fin.ofNat 11 r.toNat)))) := by
  have hindex : roundIndex r = some (Fin.ofNat 11 r.toNat) := by
    rw [roundIndex_some hr, Option.some_inj]
    exact Fin.ext (Nat.mod_eq_of_lt (by omega)).symm
  simp only [exec, execArk, hindex, withSchedule_some hs, applyToBlk_eq]

/-- R181: ENCB with a schedule. -/
theorem exec_encb_with_schedule : exec .encb s = .next (s.setBlk (encrypt s.blk K)) :=
  withSchedule_some hs _

/-- R183: DECB with a schedule. -/
theorem exec_decb_with_schedule : exec .decb s = .next (s.setBlk (decrypt s.blk K)) :=
  withSchedule_some hs _

end

/-! ## The statements -/

/-- Settles O25: the bytes of `shiftRows` and `invShiftRows`, as permutations and as rotations of the rows. -/
theorem shrowAndIshrowPermuteBytes : Obligations.ShrowAndIshrowPermuteBytes := fun s =>
  ⟨⟨_, appliesToBlk_shrow s, byte_shiftRows s.blk, byte_shiftRows_of_row s.blk,
      unchangedExcept_setBlk s _⟩,
    ⟨_, appliesToBlk_ishrow s, byte_invShiftRows s.blk, byte_invShiftRows_of_row s.blk,
      unchangedExcept_setBlk s _⟩⟩

/-- Settles O26: `mixColumn` and `invMixColumn` are multiplications by their matrices. -/
theorem mixcAndImixcMultiplyColumns : Obligations.MixcAndImixcMultiplyColumns := by
  intro s
  refine ⟨⟨_, appliesToBlk_mixc s, fun r c => ?_, unchangedExcept_setBlk s _⟩,
    ⟨_, appliesToBlk_imixc s, fun r c => ?_, unchangedExcept_setBlk s _⟩⟩
  · rw [State.setBlk_blk, mixColumns, mixColumn_eq_multiplyColumn]
    exact Block.byte_mapCols_multiplyColumn mixMatrix s.blk r c
  · rw [State.setBlk_blk, invMixColumns, invMixColumn_eq_multiplyColumn]
    exact Block.byte_mapCols_multiplyColumn invMixMatrix s.blk r c

/-- Settles O27: the laws above, one by one. -/
theorem transformLaws : Obligations.TransformLaws :=
  ⟨addRoundKey_addRoundKey,
    fun s => ⟨invSubBytes_subBytes s, subBytes_invSubBytes s⟩,
    fun s => ⟨invShiftRows_shiftRows s, shiftRows_invShiftRows s⟩,
    fun s => ⟨invMixColumns_mixColumns s, mixColumns_invMixColumns s⟩,
    fun s => ⟨map_shiftRows S s, map_invShiftRows IS s⟩,
    fun s t => ⟨Block.mapCols_xor linearOnColumns_mixColumn s t,
      Block.mapCols_xor linearOnColumns_invMixColumn s t, shiftRows_xor s t, invShiftRows_xor s t⟩,
    not_subBytes_xor⟩

/-- Settles O28: both transformations have order four, and their inverses are their third powers. -/
theorem ordersOfShrowAndMixc : Obligations.OrdersOfShrowAndMixc := fun s =>
  ⟨appliesToBlk_shrow.execAll_four shiftRows_iterate_four s,
    appliesToBlk_mixc.execAll_four mixColumns_iterate_four s,
    appliesToBlk_shrow.execAll_three appliesToBlk_ishrow invShiftRows_eq_iterate s,
    appliesToBlk_mixc.execAll_three appliesToBlk_imixc invMixColumns_eq_iterate s⟩

/-- Settles O32: the two functions are inverse, and the second command reads the schedule the first one left. -/
theorem encryptDecryptRoundTrip : Obligations.EncryptDecryptRoundTrip := by
  refine ⟨fun b K => ⟨decrypt_encrypt b K, encrypt_decrypt b K⟩, fun K => ?_, fun s K hs => ⟨?_, ?_⟩⟩
  · exact Function.bijective_iff_has_inverse.mpr
      ⟨fun b => decrypt b K, fun b => decrypt_encrypt b K, fun b => encrypt_decrypt b K⟩
  · rw [execAll_cons (exec_encb_with_schedule hs),
      execAll_cons (exec_decb_with_schedule (s := s.setBlk (encrypt s.blk K)) hs), execAll_nil]
    simp [decrypt_encrypt]
  · rw [execAll_cons (exec_decb_with_schedule hs),
      execAll_cons (exec_encb_with_schedule (s := s.setBlk (decrypt s.blk K)) hs), execAll_nil]
    simp [encrypt_decrypt]

/-- Settles O22: AddRoundKey is exclusive-or byte by byte. -/
theorem arkAddsTheRoundKey : Obligations.ArkAddsTheRoundKey := fun s _ _ hs hr =>
  ⟨_, exec_ark_with_schedule hs hr, fun j => Block.byte_xor _ _ j, unchangedExcept_setBlk s _⟩

/-- Settles O24: SubBytes and its inverse look each byte up in its place. -/
theorem subbAndIsubbSubstituteBytes : Obligations.SubbAndIsubbSubstituteBytes := fun s =>
  ⟨⟨_, appliesToBlk_subb s, Block.byte_map S s.blk, unchangedExcept_setBlk s _⟩,
    ⟨_, appliesToBlk_isubb s, Block.byte_map IS s.blk, unchangedExcept_setBlk s _⟩⟩

/-- Settles O37: each of the four commands asks for the schedule first. -/
theorem noScheduleRaisesNokey : Obligations.NoScheduleRaisesNokey := by
  intro s i hs hi
  refine ⟨_, ?_, faultEntered_recordFault .nokey s⟩
  rcases hi with rfl | rfl | rfl | ⟨r, hr, rfl⟩
  · exact withSchedule_none hs _
  · exact withSchedule_none hs _
  · exact withSchedule_none hs _
  · exact exec_ark_without_schedule hs hr

end Sys2Proof.Machine
end

section
/-! PROOFS. ENCB and DECB against their sequences with a stored schedule (spec/43_block_cipher.md R180 to R183).
A sequence of round commands folds its commands' transformations over BLK; the fold over ENCB.SEQ is `encrypt`,
the fold over DECB.SEQ is `decrypt`. -/

namespace Sys2Proof.Machine

/-! ## Sequences of round commands with a schedule -/

/-- What a round command makes of BLK when the schedule `K` is stored: ARK adds its round key (R162). -/
def keyedEffect (K : Schedule) (b : Block) : Instr → Block
  | .ark r => addRoundKey b (K.get (Fin.ofNat 11 r.toNat))
  | i => keylessEffect i b

section

variable {s : State} {K : Schedule} (hs : s.rk = some K)
include hs

/-- R160, R162: with a schedule, a round command completes and only replaces BLK. -/
theorem exec_roundCommand_with_schedule {i : Instr} (hi : isRoundCommand i = true) :
    exec i s = .next (s.setBlk (keyedEffect K s.blk i)) := by
  cases i with
  | ark r => exact exec_ark_with_schedule hs (by simpa [isRoundCommand] using hi)
  | subb | isubb | shrow | ishrow | mixc | imixc => rfl
  | kexp | encb | decb | ecbd | zeroize | clrerr => cases hi

/-- The same for a sequence of round commands: the schedule stays stored from one to the next. -/
theorem execAll_roundCommands_with_schedule (is : List Instr) (his : is.all isRoundCommand = true) :
    execAll is s = .next (s.setBlk (is.foldl (keyedEffect K) s.blk)) := by
  induction is generalizing s with
  | nil => rfl
  | cons i is ih =>
    simp only [List.all_cons, Bool.and_eq_true] at his
    obtain ⟨hi, his⟩ := his
    rw [execAll_cons (exec_roundCommand_with_schedule hs hi),
      ih (s := s.setBlk (keyedEffect K s.blk i)) hs his]
    simp

end

/-! ## The two sequences as folds -/

/-- R180: the four commands of a round of ENCB.SEQ are that round of Encrypt. -/
theorem foldl_encbRoundCommands (K : Schedule) (b : Block) (r : BitVec 4) :
    (encbRoundCommands r).foldl (keyedEffect K) b = encryptRound K b (Fin.ofNat 11 r.toNat) := rfl

/-- R180: ENCB.SEQ is Encrypt, round by round. -/
theorem foldl_encbSeqCommands (K : Schedule) (b : Block) :
    encbSeqCommands.foldl (keyedEffect K) b = encrypt b K := by
  rw [encbSeqCommands, List.foldl_cons, List.foldl_append, List.foldl_flatMap]
  simp only [foldl_encbRoundCommands]
  rfl

/-- The commands of one round of Decrypt in the grouping of R182, which starts a round at its ARK; R99 starts
it two commands earlier. -/
def decryptRoundCommands (r : BitVec 4) : List Instr := [.ark r, .imixc, .ishrow, .isubb]

/-- R182: DECB.SEQ cut at its ARKs: the first steps, nine rounds, the last ARK. -/
theorem decbSeqCommands_eq_rounds : decbSeqCommands =
    [.ark 10#4, .ishrow, .isubb] ++
      ([9, 8, 7, 6, 5, 4, 3, 2, 1].flatMap decryptRoundCommands ++ [.ark 0#4]) := rfl

/-- R182: the four commands from an ARK on are a round of Decrypt. -/
theorem foldl_decryptRoundCommands (K : Schedule) (b : Block) (r : BitVec 4) :
    (decryptRoundCommands r).foldl (keyedEffect K) b = decryptRound K b (Fin.ofNat 11 r.toNat) := rfl

/-- R182: DECB.SEQ is Decrypt, round by round. -/
theorem foldl_decbSeqCommands (K : Schedule) (b : Block) :
    decbSeqCommands.foldl (keyedEffect K) b = decrypt b K := by
  rw [decbSeqCommands_eq_rounds, List.foldl_append, List.foldl_append, List.foldl_flatMap]
  simp only [foldl_decryptRoundCommands]
  rfl

/-! ## The statements -/

/-- Settles O29: the 40 commands are round commands, and their fold over BLK is `encrypt`. -/
theorem encbEqualsItsSequence : Obligations.EncbEqualsItsSequence := by
  intro s K hs
  have hseq : execAll encbSeqCommands s = .next (s.setBlk (encrypt s.blk K)) := by
    rw [execAll_roundCommands_with_schedule hs _ (by decide), foldl_encbSeqCommands]
  exact ⟨_, exec_encb_with_schedule hs, hseq, unchangedExcept_setBlk s _⟩

/-- Settles O30: the 40 commands are round commands, and their fold over BLK is `decrypt`. -/
theorem decbEqualsItsSequence : Obligations.DecbEqualsItsSequence := by
  intro s K hs
  have hseq : execAll decbSeqCommands s = .next (s.setBlk (decrypt s.blk K)) := by
    rw [execAll_roundCommands_with_schedule hs _ (by decide), foldl_decbSeqCommands]
  exact ⟨_, exec_decb_with_schedule hs, hseq, unchangedExcept_setBlk s _⟩

end Sys2Proof.Machine
end

section
/-! PROOFS. The statements of spec/44_ecb.md: the bytes of EcbDecrypt, which check of ECBD fails, what its loop
leaves in M and BLK, then the statements. -/

namespace Sys2Proof

/-! ## EcbDecrypt, byte by byte -/

theorem length_ecbDecryptBlocks (K : Schedule) (n : Nat) (ct : List Byte) :
    (ecbDecryptBlocks K n ct).length = 16 * n := by
  induction n generalizing ct with
  | zero => rfl
  | succ n ih => rw [ecbDecryptBlocks, List.length_append, ih, Block.length_toBytes]; omega

/-- R190: a byte of the result is the byte at its place in the decryption of the block at its position. -/
theorem getD_ecbDecryptBlocks (K : Schedule) {n k : Nat} (hk : k < 16 * n) (ct : List Byte) (d : Byte) :
    (ecbDecryptBlocks K n ct).getD k d =
      (decrypt (Block.ofFn fun j => ct.getD (16 * (k / 16) + j.val) 0#8) K).byte (Fin.ofNat 16 k) := by
  induction n generalizing k ct with
  | zero => omega
  | succ n ih =>
    rw [ecbDecryptBlocks]
    rcases Nat.lt_or_ge k 16 with hfirst | hlater
    · have hj : Fin.ofNat 16 k = ⟨k, hfirst⟩ := Fin.ext (Nat.mod_eq_of_lt hfirst)
      rw [List.getD_append _ _ _ _ hfirst, hj, Block.getD_toBytes _ ⟨k, hfirst⟩,
        Nat.div_eq_of_lt hfirst, Block.ofBytes]
      simp only [Nat.mul_zero, Nat.zero_add]
    · obtain ⟨k, rfl⟩ := Nat.exists_eq_add_of_le hlater
      have hj : Fin.ofNat 16 (16 + k) = Fin.ofNat 16 k := Fin.ext (Nat.add_mod_left 16 k)
      have hdrop (x : Nat) : (ct.drop 16).getD x 0#8 = ct.getD (16 + x) 0#8 := by
        simp only [List.getD_eq_getElem?_getD, List.getElem?_drop]
      rw [List.getD_append_right _ _ _ _ hlater, Block.length_toBytes, Nat.add_sub_cancel_left,
        ih (by omega), hj]
      simp only [hdrop, ← Nat.add_assoc, show 16 * ((16 + k) / 16) = 16 + 16 * (k / 16) by omega]

/-- R190: EcbDecrypt of whole blocks. -/
theorem ecbDecrypt_of_whole_blocks {ct : List Byte} (h : ct.length % 16 = 0) (K : Schedule) :
    ecbDecrypt ct K = some (ecbDecryptBlocks K (ct.length / 16) ct) := if_pos h

/-- Settles O34: the byte of `getD_ecbDecryptBlocks` at `16 * i + j`. -/
theorem ecbDecryptIsBlockwise : Obligations.EcbDecryptIsBlockwise := by
  intro ct K
  refine ⟨fun h => if_neg h, fun h => ⟨_, ecbDecrypt_of_whole_blocks h K, ?_, fun i j hi => ?_⟩⟩
  · rw [length_ecbDecryptBlocks]; omega
  · have hblock : (16 * i + j.val) / 16 = i := by omega
    have hbyte : Fin.ofNat 16 (16 * i + j.val) = j := Fin.ext (by simp only [Fin.ofNat]; omega)
    rw [getD_ecbDecryptBlocks K (by omega), hblock, hbyte]

end Sys2Proof

namespace Sys2Proof.Machine

/-! ## The checks of ECBD -/

section

variable {s : State}

theorem State.ecbLengthBad_iff : s.ecbLengthBad = true ↔ s.len.toNat % 16 ≠ 0 := decide_eq_true_iff

theorem State.ecbOutOfBounds_iff : s.ecbOutOfBounds = true ↔ 0 < s.len.toNat ∧
    (s.memSize < s.src.toNat + s.len.toNat ∨ s.memSize < s.dst.toNat + s.len.toNat) := decide_eq_true_iff

theorem State.ecbOverlap_iff : s.ecbOverlap = true ↔ 0 < s.len.toNat ∧
    s.src.toNat < s.dst.toNat + s.len.toNat ∧ s.dst.toNat < s.src.toNat + s.len.toNat := decide_eq_true_iff

variable {K : Schedule} (hs : s.rk = some K)
include hs

/-- R191, R192: ECBD with a schedule, its checks over numbers. -/
theorem exec_ecbd_with_schedule : exec .ecbd s =
    .next (if s.len.toNat % 16 ≠ 0 then s.recordFault .length
      else if 0 < s.len.toNat ∧
          (s.memSize < s.src.toNat + s.len.toNat ∨ s.memSize < s.dst.toNat + s.len.toNat) then
        s.recordFault .bounds
      else if 0 < s.len.toNat ∧
          s.src.toNat < s.dst.toNat + s.len.toNat ∧ s.dst.toNat < s.src.toNat + s.len.toNat then
        s.recordFault .overlap
      else ecbLoop (fun c => decrypt c K) (s.len.toNat / 16) 0 s) := by
  simp only [← State.ecbLengthBad_iff, ← State.ecbOutOfBounds_iff, ← State.ecbOverlap_iff]
  rw [exec, execEcbd, withSchedule_some hs]
  simp only [raiseFault_eq, State.ecbLen, apply_ite Host.Outcome.next]

/-- R192: where no check fails the loop runs over LEN div 16 blocks. -/
theorem exec_ecbd_of_checks_pass (hlen : s.len.toNat % 16 = 0)
    (hranges : 0 < s.len.toNat →
      s.src.toNat + s.len.toNat ≤ s.memSize ∧ s.dst.toNat + s.len.toNat ≤ s.memSize ∧
      (s.src.toNat + s.len.toNat ≤ s.dst.toNat ∨ s.dst.toNat + s.len.toNat ≤ s.src.toNat)) :
    exec .ecbd s = .next (ecbLoop (fun c => decrypt c K) (s.len.toNat / 16) 0 s) := by
  rw [exec_ecbd_with_schedule hs, if_neg (by omega), if_neg (by omega), if_neg (by omega)]

end

/-! ## What the loop of ECBD leaves -/

/-- R192: the loop leaves every element but BLK and M. -/
theorem unchangedExcept_ecbLoop (f : Block → Block) (n i : Nat) (s : State) :
    State.UnchangedExcept [.blk, .mem] s (ecbLoop f n i s) := by
  obtain ⟨m, b, h⟩ := ecbLoop_eq f n i s
  simp [h, State.UnchangedExcept]

section

variable {s : State} {n : Nat}
  (hdisjoint : s.src.toNat + 16 * n ≤ s.dst.toNat ∨ s.dst.toNat + 16 * n ≤ s.src.toNat)
include hdisjoint

/-- R192: the loop from block 0 leaves every byte outside the destination. -/
theorem readByte_ecbLoop_outside (f : Block → Block) {a : Nat}
    (ha : ¬ (s.dst.toNat ≤ a ∧ a < s.dst.toNat + 16 * n)) :
    (ecbLoop f n 0 s).mem.readByte a = s.mem.readByte a := by
  rw [readByte_ecbLoop f n 0 s (by simpa [State.ecbSrc, State.ecbDst] using hdisjoint) a, if_neg]
  simpa [State.ecbDst] using ha

/-- R192: the loop from block 0 leaves in byte `k` of the destination byte `k mod 16` of the decryption of source
block `k div 16`. -/
theorem readByte_ecbLoop_dst (f : Block → Block) {k : Nat} (hk : k < 16 * n) :
    (ecbLoop f n 0 s).mem.readByte (s.dst.toNat + k) =
      (f (s.mem.readBlock (s.src.toNat + 16 * (k / 16)))).byte (Fin.ofNat 16 k) := by
  rw [readByte_ecbLoop f n 0 s (by simpa [State.ecbSrc, State.ecbDst] using hdisjoint), State.ecbDst,
    State.ecbSrc, if_pos (by omega), Nat.add_sub_cancel_left]

/-- R192: the destination after the loop is EcbDecrypt of the source before it. -/
theorem readBytes_dst_ecbLoop (K : Schedule) :
    (ecbLoop (fun c => decrypt c K) n 0 s).mem.readBytes s.dst.toNat (16 * n) =
      ecbDecryptBlocks K n (s.mem.readBytes s.src.toNat (16 * n)) := by
  refine List.ext_getElem (by rw [Memory.length_readBytes, length_ecbDecryptBlocks]) fun k hk hk' => ?_
  rw [Memory.length_readBytes] at hk
  rw [← List.getD_eq_getElem _ 0#8, ← List.getD_eq_getElem _ 0#8, Memory.getD_readBytes, if_pos hk,
    readByte_ecbLoop_dst hdisjoint _ hk, getD_ecbDecryptBlocks K hk]
  have hblock : s.mem.readBlock (s.src.toNat + 16 * (k / 16)) =
      Block.ofFn fun j => (s.mem.readBytes s.src.toNat (16 * n)).getD (16 * (k / 16) + j.val) 0#8 :=
    Block.ext_byte fun j => by
      rw [Memory.byte_readBlock, Block.byte_ofFn, Memory.getD_readBytes, if_pos (by omega), Nat.add_assoc]
  rw [hblock]

/-- R192: the source after the loop is as before. -/
theorem readBytes_src_ecbLoop (f : Block → Block) :
    (ecbLoop f n 0 s).mem.readBytes s.src.toNat (16 * n) = s.mem.readBytes s.src.toNat (16 * n) :=
  Memory.readBytes_congr fun _ _ => readByte_ecbLoop_outside hdisjoint f (by omega)

/-- R192: BLK after the loop is the decryption of the last source block, or as before if there is none. -/
theorem blk_ecbLoop_from_zero (f : Block → Block) : (ecbLoop f n 0 s).blk =
    if 16 * n = 0 then s.blk else f (s.mem.readBlock (s.src.toNat + (16 * n - 16))) := by
  cases n with
  | zero => rfl
  | succ n =>
    rw [if_neg (by omega), blk_ecbLoop f n 0 s (by simpa [State.ecbSrc, State.ecbDst] using hdisjoint),
      State.ecbSrc, Nat.zero_add, Nat.mul_succ, Nat.add_sub_cancel]

end

/-! ## The statements -/

/-- Settles O33: the checks pass, and the loop leaves what the lemmas above say. -/
theorem ecbdDecryptsTheRange : Obligations.EcbdDecryptsTheRange := by
  intro s K len src dst hs hlen hranges
  have hbytes : len = 16 * (len / 16) := by omega
  have hdisjoint : src + 16 * (len / 16) ≤ dst ∨ dst + 16 * (len / 16) ≤ src := by omega
  refine ⟨_, exec_ecbd_of_checks_pass hs hlen hranges, ?_, ?_, fun a ha => ?_, ?_,
    unchangedExcept_ecbLoop _ _ _ s⟩
  · have hdst := readBytes_dst_ecbLoop hdisjoint K
    rw [← hbytes] at hdst
    rw [ecbDecrypt_of_whole_blocks (by rwa [Memory.length_readBytes]), Memory.length_readBytes, ← hdst]
  · have hsrc := readBytes_src_ecbLoop hdisjoint fun c => decrypt c K
    rwa [← hbytes] at hsrc
  · exact readByte_ecbLoop_outside hdisjoint _ (by rwa [← hbytes])
  · have hblk := blk_ecbLoop_from_zero hdisjoint fun c => decrypt c K
    rwa [← hbytes] at hblk

/-- Settles O36: each clause says which check is the first to fail. -/
theorem ecbdFaultsInOrder : Obligations.EcbdFaultsInOrder := by
  intro s len src dst passes overlap
  refine ⟨fun hs => ⟨_, withSchedule_none hs _, faultEntered_recordFault .nokey s⟩, ?_⟩
  simp only [Option.ne_none_iff_exists']
  refine ⟨?_, ?_, ?_, ?_⟩
  · rintro ⟨K, hs⟩ hlen
    refine ⟨_, exec_ecbd_with_schedule hs, ?_⟩
    rw [if_pos hlen]
    exact faultEntered_recordFault .length s
  · rintro ⟨K, hs⟩ hlen hpos hpasses
    refine ⟨_, exec_ecbd_with_schedule hs, ?_⟩
    rw [if_neg (not_not.mpr hlen), if_pos ⟨hpos, hpasses⟩]
    exact faultEntered_recordFault .bounds s
  · rintro ⟨K, hs⟩ hlen hpos hpasses hoverlap
    refine ⟨_, exec_ecbd_with_schedule hs, ?_⟩
    rw [if_neg (not_not.mpr hlen), if_neg fun h => hpasses h.2, if_pos ⟨hpos, hoverlap⟩]
    exact faultEntered_recordFault .overlap s
  · rintro ⟨K, hs⟩ hlen hnone
    obtain ⟨m, b, hloop⟩ := ecbLoop_eq (fun c => decrypt c K) (len / 16) 0 s
    have hexec := exec_ecbd_of_checks_pass hs hlen (by omega)
    rw [hloop] at hexec
    exact ⟨_, hexec, rfl, rfl⟩

/-- Settles O35: with LEN = 0 no check can fail, and the loop runs over no block. -/
theorem ecbdOfNothingChangesNothing : Obligations.EcbdOfNothingChangesNothing := by
  intro s K hs hlen
  have hzero : s.len.toNat = 0 := by rw [hlen]; rfl
  rw [exec_ecbd_of_checks_pass hs (by omega) (by omega), hzero]
  rfl

end Sys2Proof.Machine
end

section
/-! PROOFS. The statements of spec/45_system.md: what the illegal word, ZEROIZE and CLRERR do from every state. -/

namespace Sys2Proof.Machine

/-! ## The three effects -/

/-- R96, R202: a word that does not decode only records ILLCMD. -/
theorem performWord_of_illegal {w : Word} {e : Illegal} (hw : decode w = .error e) (s : State) :
    performWord w s = .next (s.recordFault .illcmd) := by
  rw [performWord, hw, execIllegal, raiseFault_eq]

/-- R200: ZEROIZE resets the registers, from every state. -/
theorem exec_zeroize (s : State) : exec .zeroize s = .next s.resetRegisters := rfl

/-- R201: CLRERR clears the recorded fault, from every state. -/
theorem exec_clrerr (s : State) : exec .clrerr s = .next s.clearFault := rfl

/-- R200: resetting the registers leaves M and the model's own fields. -/
theorem unchangedExcept_resetRegisters (s : State) :
    State.UnchangedExcept [.key, .blk, .rk, .err, .cause, .src, .dst, .len] s s.resetRegisters := by
  simp [State.UnchangedExcept]

/-- R201: clearing the fault leaves every element but ERR and CAUSE. -/
theorem unchangedExcept_clearFault (s : State) : State.UnchangedExcept [.err, .cause] s s.clearFault := by
  simp [State.UnchangedExcept]

/-! ## The statements -/

/-- Settles O8: the write to CMD is `performWord`, which records ILLCMD whatever the other elements hold. -/
theorem stepFaultsOnIllegalWord : Obligations.StepFaultsOnIllegalWord := by
  intro s w e rest h hw
  have hstep : step s = .next ((s.withScript rest).recordFault .illcmd) := by
    rw [step_writeReg (r := .cmd) h, writeReg, performWord_of_illegal hw]
  exact ⟨_, hstep, faultEntered_recordFault .illcmd (s.withScript rest)⟩

/-- Settles O38: ZEROIZE is `State.resetRegisters`, and every byte of the zero block is zero. -/
theorem zeroizeLeavesTheResetRegisters : Obligations.ZeroizeLeavesTheResetRegisters :=
  ⟨decode_eq_ok_iff.mpr ⟨rfl, rfl⟩, fun s => ⟨_, exec_zeroize s, Block.byte_zero, Block.byte_zero,
    rfl, rfl, rfl, rfl, rfl, rfl, rfl, unchangedExcept_resetRegisters s⟩⟩

/-- Settles O39: CLRERR is `State.clearFault`. -/
theorem clrerrClearsTheFault : Obligations.ClrerrClearsTheFault :=
  ⟨decode_eq_ok_iff.mpr ⟨rfl, rfl⟩, fun s => ⟨_, exec_clrerr s, rfl, rfl, unchangedExcept_clearFault s⟩⟩

end Sys2Proof.Machine
end

section
/-! PROOFS. The statement of spec/60_exceptions.md about precise faults (R212, R214, R215). -/

namespace Sys2Proof.Machine

/-- R212, R215: a well-formed command turns ERR from 0 to 1 only by recording a fault that the table gives it;
every other case of a command leaves ERR = 0 or clears it. -/
theorem exec_raises_tabulated {i : Instr} {s t : State} (hw : i.wellFormed = true) (hs : s.err = false)
    (h : exec i s = .next t) (ht : t.err = true) : ∃ c, mayRaise i c = true ∧ t = s.recordFault c := by
  rcases exec_cases hw h with
    hfault | ⟨-, rfl⟩ | ⟨-, rfl⟩ | ⟨-, rfl⟩ | ⟨b, rfl⟩ | ⟨m, b, -, rfl⟩
  · exact hfault
  · simp [hs] at ht
  · simp at ht
  · simp at ht
  · simp [hs] at ht
  · simp [hs] at ht

/-- R214: from ERR = 0 the recorded cause is the one raised. -/
theorem recordFault_cause_of_err_false {s : State} (hs : s.err = false) (c : Cause) :
    (s.recordFault c).cause = c := by simp [hs]

/-- Settles O40: the command recorded a fault of the table, and from ERR = 0 its cause is the one in CAUSE. -/
theorem faultsArePreciseAndTabulated : Obligations.FaultsArePreciseAndTabulated := by
  intro i s t hw hs h ht
  obtain ⟨c, hc, rfl⟩ := exec_raises_tabulated hw hs h ht
  rw [recordFault_cause_of_err_false hs]
  exact ⟨faultEntered_recordFault c s, hc⟩

end Sys2Proof.Machine
end

section
/-! PROOFS. The statements of spec/70_reset_and_hazards.md: which runs end refused, at which points a run has gone
wrong, and what leaves a recorded fault. -/

namespace Sys2Proof.Machine

/-! ## Runs that end refused -/

/-- R247: a run ends or is refused; it has no third result, `Fault` being empty. -/
theorem stepTimes_next_or_refused (n : Nat) (s : State) :
    (∃ t, stepTimes n s = .next t) ∨ ∃ r, stepTimes n s = .refused r := by
  cases h : stepTimes n s with
  | next t => exact .inl ⟨t, rfl⟩
  | fault f => cases f
  | refused r => exact .inr ⟨r, rfl⟩

/-- A step that is refused ends the run refused. -/
theorem stepTimes_succ_of_refused {s : State} {r : Refusal} (h : step s = .refused r) (n : Nat) :
    stepTimes (n + 1) s = .refused r := by
  simp [stepTimes, h]

/-- R34, R66: `n` steps are refused exactly when a model refuses one of the next `n` operations. -/
theorem stepTimes_refused_iff (n : Nat) (s : State) :
    (∃ r, stepTimes n s = .refused r) ↔ ∃ op ∈ s.script.take n, op.meaningless s.memSize = true := by
  induction n generalizing s with
  | zero => simp
  | succ n ih =>
    obtain ⟨hrefused, -⟩ := stepRefusesExactlyMeaninglessOps s
    cases h : step s with
    | fault f => cases f
    | refused r =>
      obtain ⟨op, rest, hscript, hop⟩ := hrefused.mp ⟨r, h⟩
      refine iff_of_true ⟨r, stepTimes_succ_of_refused h n⟩ ⟨op, ?_, hop⟩
      simp [hscript]
    | next t =>
      obtain ⟨hscript, hsize⟩ := step_keeps h
      rw [stepTimes_succ h, ih, hscript, hsize]
      cases hs : s.script with
      | nil => simp
      | cons op rest =>
        have hop : op.meaningless s.memSize ≠ true := by
          intro hop
          obtain ⟨r, hr⟩ := hrefused.mpr ⟨op, rest, hs, hop⟩
          rw [h] at hr
          cases hr
        simp [hop]

/-- R247: a run is refused exactly when its script contains an operation that a model refuses. -/
theorem run_refused_iff (s : State) :
    (∃ r, s.run = .refused r) ↔ ∃ op ∈ s.script, op.meaningless s.memSize = true := by
  rw [State.run, stepTimes_refused_iff, List.take_length]

/-- R247: where a run ends, its script is performed and MEMSIZE is as it was. -/
theorem run_next {s t : State} (h : s.run = .next t) : t.finished = true ∧ t.memSize = s.memSize := by
  obtain ⟨hscript, hsize⟩ := stepTimes_keeps h
  refine ⟨?_, hsize⟩
  rw [State.finished, hscript, List.drop_length, List.isEmpty_nil]

/-! ## Runs that have gone wrong -/

/-- R247 at one point: an unexpected ERR = 1, or the step from there is refused. -/
theorem wrongAt_iff (expected : Bool) (s : State) : s.wrongAt expected = true ↔
    (∃ r, step s = .refused r) ∨ (s.err = true ∧ expected = false) := by
  obtain ⟨hrefused, -⟩ := stepRefusesExactlyMeaninglessOps s
  rw [hrefused, State.wrongAt, Bool.or_eq_true, or_comm]
  cases s.script <;> simp

/-- ERR = 1 at one of the points that `n` steps from `s` reach, where the list `es` does not expect it. -/
def UnexpectedErr (n : Nat) (es : List Bool) (s : State) : Prop :=
  ∃ k t, k ≤ n ∧ stepTimes k s = .next t ∧ t.err = true ∧ es.getD k false = false

theorem unexpectedErr_zero (es : List Bool) (s : State) :
    UnexpectedErr 0 es s ↔ s.err = true ∧ es.headD false = false := by
  constructor
  · rintro ⟨k, t, hk, hrun, herr, hes⟩
    obtain rfl : k = 0 := by omega
    cases hrun
    exact ⟨herr, by cases es <;> exact hes⟩
  · rintro ⟨herr, hes⟩
    exact ⟨0, s, le_rfl, rfl, herr, by cases es <;> exact hes⟩

/-- The points of `n + 1` steps are the first one and those of the `n` steps after it. -/
theorem unexpectedErr_succ {s t : State} (h : step s = .next t) (n : Nat) (es : List Bool) :
    UnexpectedErr (n + 1) es s ↔ UnexpectedErr 0 es s ∨ UnexpectedErr n es.tail t := by
  have htail : ∀ k, es.getD (k + 1) false = es.tail.getD k false := by
    intro k
    cases es <;> rfl
  constructor
  · rintro ⟨k, u, hk, hrun, herr, hes⟩
    cases k with
    | zero => exact .inl ⟨0, u, le_rfl, hrun, herr, hes⟩
    | succ k =>
      rw [stepTimes_succ h] at hrun
      exact .inr ⟨k, u, by omega, hrun, herr, htail k ▸ hes⟩
  · rintro (⟨k, u, hk, hrun, herr, hes⟩ | ⟨k, u, hk, hrun, herr, hes⟩)
    · exact ⟨k, u, by omega, hrun, herr, hes⟩
    · exact ⟨k + 1, u, by omega, by rw [stepTimes_succ h, hrun], herr, (htail k).trans hes⟩

/-- R247 over `n` steps: the point after the last one looks at one more operation, hence `n + 1`. -/
theorem goesWrong_iff (n : Nat) (es : List Bool) (s : State) : goesWrong n es s = true ↔
    (∃ r, stepTimes (n + 1) s = .refused r) ∨ UnexpectedErr n es s := by
  induction n generalizing es s with
  | zero =>
    rw [goesWrong, wrongAt_iff, unexpectedErr_zero]
    cases h : step s <;> simp [stepTimes, h]
  | succ n ih =>
    rw [goesWrong, Bool.or_eq_true, wrongAt_iff, ← unexpectedErr_zero]
    cases h : step s with
    | fault f => cases f
    | refused r => simp [stepTimes_succ_of_refused h]
    | next t =>
      rw [unexpectedErr_succ h, stepTimes_succ h]
      simp only [ih, reduceCtorEq, exists_false, false_or]
      exact or_left_comm

/-! ## What keeps a recorded fault -/

/-- R92, R95: only its own word decodes to a well-formed command. -/
theorem decode_ok_iff_eq_encode {i : Instr} (hi : i.wellFormed = true) (w : Word) :
    decode w = .ok i ↔ w = encode i := by
  rw [decode_eq_ok_iff, and_iff_right hi, eq_comm]

/-- R29: the operations that clear ERR, as the words written to CMD and RESET. -/
theorem clearsFault_eq_false_iff (op : HostOp) : op.clearsFault = false ↔
    op ≠ .reset ∧ op ≠ .writeReg 32 0x00#8 0x0000000E#32 ∧ op ≠ .writeReg 32 0x00#8 0x0000000F#32 := by
  cases op with
  | writeReg bits off v =>
    have hzeroize : decode v = .ok .zeroize ↔ v = 0x0000000E#32 := decode_ok_iff_eq_encode rfl v
    have hclrerr : decode v = .ok .clrerr ↔ v = 0x0000000F#32 := decode_ok_iff_eq_encode rfl v
    simp only [HostOp.clearsFault, hzeroize, hclrerr, decide_eq_false_iff_not, ne_eq,
      HostOp.writeReg.injEq, reduceCtorEq, not_false_eq_true, true_and]
    tauto
  | _ => simp [HostOp.clearsFault]

/-- R29, R217: a word written to CMD that is neither CLRERR's nor ZEROIZE's keeps a recorded fault. -/
theorem performWord_keeps_fault {w : Word} {s t : State} (he : s.err = true)
    (hclr : decode w ≠ .ok .clrerr) (hzero : decode w ≠ .ok .zeroize) (h : performWord w s = .next t) :
    t.err = true ∧ t.cause = s.cause := by
  rcases performWord_cases w s with ⟨i, hw, hi⟩ | ⟨_, -, hi⟩
  · refine firstCauseIsKept i s t he ?_ ?_ (hi ▸ h)
    · rintro rfl; exact hclr hw
    · rintro rfl; exact hzero hw
  · rw [hi] at h
    cases h
    simp [he]

/-- R29: a host operation that does not clear ERR keeps a recorded fault. -/
theorem performOp_keeps_fault {op : HostOp} {s t : State} (he : s.err = true)
    (hop : op.clearsFault = false) (h : performOp op s = .next t) :
    t.err = true ∧ t.cause = s.cause := by
  cases op with
  | writeReg bits off v =>
    rw [performOp, hostWriteReg] at h
    cases hr : accessedReg bits off with
    | error e => simp [hr] at h
    | ok r =>
      simp only [hr] at h
      obtain ⟨rfl, hoff⟩ := accessedReg_ok hr
      cases r with
      | cmd =>
        obtain rfl : off = 0x00#8 := BitVec.eq_of_toNat_eq hoff
        obtain ⟨hclr, hzero⟩ : decode v ≠ .ok .clrerr ∧ decode v ≠ .ok .zeroize := by
          simpa [HostOp.clearsFault] using hop
        exact performWord_keeps_fault he hclr hzero h
      | _ => cases h; exact ⟨he, rfl⟩
  | reset => simp [HostOp.clearsFault] at hop
  | readReg bits off =>
    rw [performOp, hostReadReg] at h
    split at h <;> cases h
    exact ⟨he, rfl⟩
  | writeMem a bs =>
    rw [performOp, hostWriteMem] at h
    split at h <;> cases h
    exact ⟨he, rfl⟩
  | readMem a n =>
    rw [performOp, hostReadMem] at h
    split at h <;> cases h
    exact ⟨he, rfl⟩

/-- R217, R247: steps over a script none of whose operations clears ERR keep a recorded fault. -/
theorem stepTimes_keeps_fault {n : Nat} {s t : State} (he : s.err = true)
    (hops : ∀ op ∈ s.script, op.clearsFault = false) (h : stepTimes n s = .next t) :
    t.err = true ∧ t.cause = s.cause := by
  induction n generalizing s with
  | zero => cases h; exact ⟨he, rfl⟩
  | succ n ih =>
    cases hs : step s with
    | fault f => cases f
    | refused r => rw [stepTimes_succ_of_refused hs] at h; cases h
    | next u =>
      obtain ⟨hu, hucause⟩ : u.err = true ∧ u.cause = s.cause := by
        rcases step_cases hs with ⟨-, rfl⟩ | ⟨op, rest, hscript, hop⟩
        · exact ⟨he, rfl⟩
        · exact performOp_keeps_fault (s := s.withScript rest) he (hops op (by simp [hscript])) hop
      have hrest : ∀ op ∈ u.script, op.clearsFault = false := by
        intro op hop
        obtain ⟨hscript, -⟩ := step_keeps hs
        rw [hscript] at hop
        exact hops op (List.mem_of_mem_tail hop)
      rw [stepTimes_succ hs] at h
      obtain ⟨herr, hcause⟩ := ih hu hrest h
      exact ⟨herr, hcause.trans hucause⟩

/-! ## The statements -/

/-- Settles O11: `exec_completes`, the ill-formed ARK terms included. -/
theorem everyCommandCompletes : Obligations.EveryCommandCompletes := exec_completes

/-- Settles O45: a run that did not end would be refused, for which its script has no operation. -/
theorem everyRunEnds : Obligations.EveryRunEnds := by
  intro s hops
  rcases stepTimes_next_or_refused s.script.length s with ⟨t, h⟩ | hrefused
  · exact ⟨t, h, run_next h⟩
  · obtain ⟨op, hmem, hop⟩ := (run_refused_iff s).mp hrefused
    rw [hops op hmem] at hop
    cases hop

/-- Settles O59: `goesWrong_iff` over the whole script, past whose end there is no operation to refuse. -/
theorem runGoesWrongExactly : Obligations.RunGoesWrongExactly := by
  intro s expected
  rw [State.goneWrong, goesWrong_iff, stepTimes_refused_iff, List.take_of_length_le (Nat.le_succ _),
    UnexpectedErr]

/-- Settles O60: an operation that a model refuses refuses the run, and the steps after the first `k` keep the fault. -/
theorem runHidesNothing : Obligations.RunHidesNothing := by
  refine ⟨fun s => (run_refused_iff s).mpr, fun s u t k hu he hops ht hk => ?_⟩
  obtain ⟨hscript, -⟩ := stepTimes_keeps hu
  have hrest : stepTimes (s.script.length - k) u = .next t := by
    rw [← stepTimes_add hu, Nat.add_sub_cancel' hk]
    exact ht
  refine stepTimes_keeps_fault he (fun op hop => ?_) hrest
  rw [hscript] at hop
  exact (clearsFault_eq_false_iff op).mpr (hops op hop)

/-- Settles O9: the first case of `step`. -/
theorem idleStepChangesNothing : Obligations.IdleStepChangesNothing := fun _ => step_idle

/-- Settles O58: RESET is `State.resetRegisters`, as ZEROIZE is. -/
theorem resetKeepsMemory : Obligations.ResetKeepsMemory := by
  intro s rest h
  have hstep : step s = .next (s.withScript rest).resetRegisters := by
    rw [step_next_op h, performOp, hostReset]
  exact ⟨_, hstep, Block.byte_zero, Block.byte_zero, rfl, rfl, rfl, rfl, rfl, rfl, rfl,
    unchangedExcept_resetRegisters (s.withScript rest)⟩

end Sys2Proof.Machine
end
